-- ==== Sys2Proof/Word.lean ====
section
/-! DEFINITION. The words of the block and the FixedValue (spec 10_state.md R10, R11). -/

namespace Sys2Proof

/-- A word of the interface: an operand, or the result register (R11, R40). -/
abbrev Word := BitVec 32

/-- A 31-bit magnitude, the absolute value scaled by 2^16 (R10). Its width is the "31-bit ceiling" of R11 and
R12. -/
abbrev Mag := BitVec 31

/-- An 8-bit op code (R40, R41). -/
abbrev OpCode := BitVec 8

/-- A FixedValue: the pair of fields of R10, "two logically separate fields" (R11). `sign` is true for negative.
Negative zero (`sign`, magnitude 0) is an ordinary value (R13). -/
structure FixedValue where
  sign : Bool
  mag  : Mag
  deriving DecidableEq, Repr

end Sys2Proof
end

