-- ==== Sys2Proof/Syntax.lean ====
section
/-! DEFINITION. The commands of the block as syntax (spec 30_encoding.md R40 to R45). -/

namespace Sys2Proof

/-- The operations of R42, one constructor for each row of spec/opcode_table.json, with the operand words the row
reads. A one-operand operation has no `b`, since it does not read it (R45). Operands are the raw 32-bit fields,
"taken as it stands, with no extension, scaling or shift at decode" (R43). -/
inductive Instr where
  | fromint (a : Word)
  | fromflt (a : Word)
  | add (a b : Word)
  | sub (a b : Word)
  | mul (a b : Word)
  | div (a b : Word)
  | lt (a b : Word)
  | gt (a b : Word)
  | le (a b : Word)
  | ge (a b : Word)
  | eq (a b : Word)
  | ne (a b : Word)
  | abs (a : Word)
  | sgn (a : Word)
  | whole (a : Word)
  | dig10 (a : Word)
  deriving DecidableEq, Repr

/-- The three fields of the command format `CMD` (R40), before any look at the op code. -/
structure Command where
  op : OpCode
  a  : Word
  b  : Word
  deriving DecidableEq, Repr

end Sys2Proof
end

