-- ==== Sys2Proof/WellFormed.lean ====
section
/-! DEFINITION. Which commands are operations at all. The one check the spec has is on the op code (R46): operands
have none, since every bit pattern of every operand kind is legal (R43), and a 31-bit magnitude with a sign bit
cannot be malformed (R12). -/

namespace Sys2Proof

/-- The sixteen defined values of `op` (R42; 93_implementation_defined.md U3). -/
def listedOps : List OpCode :=
  [0x01#8, 0x02#8, 0x10#8, 0x11#8, 0x12#8, 0x13#8, 0x20#8, 0x21#8, 0x22#8, 0x23#8, 0x24#8, 0x25#8,
   0x30#8, 0x31#8, 0x40#8, 0x41#8]

/-- The op code is one of R42's; the other 240 values are reserved (R46). -/
def OpCode.listed (op : OpCode) : Bool := listedOps.contains op

/-- A command is well formed when its op code is not reserved (R46). -/
def Command.wellFormed (c : Command) : Bool := OpCode.listed c.op

/-- The op code of each operation (R42). -/
def Instr.opCode : Instr → OpCode
  | .fromint _ => 0x01#8
  | .fromflt _ => 0x02#8
  | .add _ _   => 0x10#8
  | .sub _ _   => 0x11#8
  | .mul _ _   => 0x12#8
  | .div _ _   => 0x13#8
  | .lt _ _    => 0x20#8
  | .gt _ _    => 0x21#8
  | .le _ _    => 0x22#8
  | .ge _ _    => 0x23#8
  | .eq _ _    => 0x24#8
  | .ne _ _    => 0x25#8
  | .abs _     => 0x30#8
  | .sgn _     => 0x31#8
  | .whole _   => 0x40#8
  | .dig10 _   => 0x41#8

/-- The command an operation is written as: its op code and operands, with zero in the `b` field of a one-operand
operation, where "the assembler puts zero" (R45). -/
def Instr.command (i : Instr) : Command :=
  match i with
  | .fromint a => ⟨i.opCode, a, 0#32⟩
  | .fromflt a => ⟨i.opCode, a, 0#32⟩
  | .add a b   => ⟨i.opCode, a, b⟩
  | .sub a b   => ⟨i.opCode, a, b⟩
  | .mul a b   => ⟨i.opCode, a, b⟩
  | .div a b   => ⟨i.opCode, a, b⟩
  | .lt a b    => ⟨i.opCode, a, b⟩
  | .gt a b    => ⟨i.opCode, a, b⟩
  | .le a b    => ⟨i.opCode, a, b⟩
  | .ge a b    => ⟨i.opCode, a, b⟩
  | .eq a b    => ⟨i.opCode, a, b⟩
  | .ne a b    => ⟨i.opCode, a, b⟩
  | .abs a     => ⟨i.opCode, a, 0#32⟩
  | .sgn a     => ⟨i.opCode, a, 0#32⟩
  | .whole a   => ⟨i.opCode, a, 0#32⟩
  | .dig10 a   => ⟨i.opCode, a, 0#32⟩

/-- An operation is well formed when its command is. Every term of `Instr` is (Laws/PerInstr.lean). -/
def Instr.wellFormed (i : Instr) : Bool := i.command.wellFormed

end Sys2Proof
end

