-- ==== Sys2Proof/Decode.lean ====
section
/-! DEFINITION. From the 72-bit command word to an operation and back (spec 30_encoding.md R40 to R47). -/

namespace Sys2Proof

/-- Why the decoder refuses a word: there is one reason, a reserved op code (R46). -/
inductive DecodeReject where
  | reservedOp (op : OpCode)
  deriving DecidableEq, Repr

/-- The fields of a command word: `op = cmd[71:64]`, `a = cmd[63:32]`, `b = cmd[31:0]` (R40). -/
def Command.ofBits (w : BitVec 72) : Command :=
  ⟨w.extractLsb' 64 8, w.extractLsb' 32 32, w.extractLsb' 0 32⟩

/-- The command word `{op, a, b}` (R40). -/
def Command.toBits (c : Command) : BitVec 72 := c.op ++ c.a ++ c.b

/-- R47: look `op` up in the map of R42; "if absent the command is reserved"; otherwise take `a` and, for the
two-operand operations, `b`. -/
def decodeCommand (c : Command) : Except DecodeReject Instr :=
  match c.op with
  | 0x01#8 => .ok (.fromint c.a)
  | 0x02#8 => .ok (.fromflt c.a)
  | 0x10#8 => .ok (.add c.a c.b)
  | 0x11#8 => .ok (.sub c.a c.b)
  | 0x12#8 => .ok (.mul c.a c.b)
  | 0x13#8 => .ok (.div c.a c.b)
  | 0x20#8 => .ok (.lt c.a c.b)
  | 0x21#8 => .ok (.gt c.a c.b)
  | 0x22#8 => .ok (.le c.a c.b)
  | 0x23#8 => .ok (.ge c.a c.b)
  | 0x24#8 => .ok (.eq c.a c.b)
  | 0x25#8 => .ok (.ne c.a c.b)
  | 0x30#8 => .ok (.abs c.a)
  | 0x31#8 => .ok (.sgn c.a)
  | 0x40#8 => .ok (.whole c.a)
  | 0x41#8 => .ok (.dig10 c.a)
  | op     => .error (.reservedOp op)

/-- The operation a 72-bit word stands for. Total: a reserved word is rejected by name. -/
def decode (w : BitVec 72) : Except DecodeReject Instr := decodeCommand (Command.ofBits w)

/-- The word of an operation (R40, R42, R45). -/
def encode (i : Instr) : BitVec 72 := i.command.toBits

/-- The operation read from the low `nbits` bits of `w`, bit 0 being the least significant bit of the one 72-bit
command word (R6, R40); the bits above `nbits` are 0. A number that needs more than 72 bits is no command (R40). -/
def decodeTableWord (nbits w : Nat) : Option Instr :=
  let v := w % 2 ^ nbits
  if v < 2 ^ 72 then (decode (BitVec.ofNat 72 v)).toOption else none

end Sys2Proof
end

