-- ==== Sys2Proof/Config.lean ====
section
/-! DEFINITION. What is fixed for the block (spec 00_scope.md R5), and the free values: what no rule fixes. A free
value is an opaque constant, so no proof can lean on what it is (log 2, log 5). -/

namespace Sys2Proof.Config

/-- The scale exponent, the number of fraction bits (R5). -/
def fracBits : Nat := 16

/-- The extraction steps of FROMFLT (R5, R63). -/
def extractSteps : Nat := 16

/-- The conditional-add steps of MUL, one for each fraction bit of the right operand (R5, R73). -/
def mulSteps : Nat := 16

/-- The pre-shift of DIV's dividend (R5, R75). -/
def divShift : Nat := 16

/-- The steps of the iterative divider, one for each dividend bit (R77). -/
def divSteps : Nat := 47

/-- The first float exponent field on which FROMFLT is undefined (R65). -/
def floatExpLimit : Nat := 158

/-- The digit count of rendering when the caller gives none (R5, R111). -/
def defaultDigits : Nat := 4

/-- The decimal radix of rendering and of DIG10 (R5, R107). -/
def radix : Nat := 10

/-- FREE VALUE. What `R` holds where the spec leaves it unspecified: after a reset edge and between acceptance and
response (R14, R22, R144; log 2). The argument is the draw counter of State. -/
opaque freeResult : Nat → Word

/-- FREE VALUE. What a host that reads `r` while `RV = 0` sees (R36; U4 "any value"; log 9). The argument is the number
of such reads before it. -/
opaque freeRead : Nat → Word

/-- FREE VALUE. What the latch `OP` holds after a reset edge (R22, R140; log 2). -/
opaque freeOp : Nat → OpCode

/-- FREE VALUE. What the latch `A` holds after a reset edge (R22, R140; log 2). -/
opaque freeA : Nat → Word

/-- FREE VALUE. What the latch `B` holds after a reset edge (R22, R140; log 2). -/
opaque freeB : Nat → Word

/-- FREE VALUE. The cycles of `LAT(op)` beyond the first (R147; log 5), for a draw and the accepted command. -/
opaque freeLatency : Nat → OpCode → Word → Word → Nat

/-- `LAT(op)`: "at least 1 and finite for every defined command, may depend on `op` and on the operand values, and
is otherwise unspecified" (R147). -/
def latency (draw : Nat) (op : OpCode) (a b : Word) : Nat := freeLatency draw op a b + 1

end Sys2Proof.Config
end

