-- ==== Sys2Proof/Machine/Operands.lean ====
section
/-! DEFINITION. The operand kinds of R43 and the result kinds of R44: how 32 bits are read, and how a result becomes
32 bits. -/

namespace Sys2Proof.Machine

/-! ## FX: the packed FixedValue (R11, R43) -/

/-- The FixedValue in a word: `sign = w[31]`, `mag = w mod 2^31` (R11). -/
def fx (w : Word) : FixedValue := ⟨w.msb, w.setWidth 31⟩

/-- `pack(s, m) = {s, m}` (R7). -/
def pack (v : FixedValue) : Word := BitVec.ofBool v.sign ++ v.mag

/-- The reduction of a magnitude `mod 2^31`: "arithmetic that overflows this width wraps silently" (R12). -/
def wrapMag (n : Nat) : Mag := BitVec.ofNat 31 n

/-- The integer part of a magnitude, `mag >> 16` (R8). -/
def intPart (m : Mag) : Nat := m.toNat >>> Config.fracBits

/-- The fraction field of a magnitude, `mag mod 2^16` (R8). -/
def fracPart (m : Mag) : Nat := m.toNat % 2 ^ Config.fracBits

/-! ## I32: a 32-bit two's complement integer (R43, R61) -/

/-- `n < 0`, the top bit. -/
def i32Negative (w : Word) : Bool := w.msb

/-- `|n|` as an unsigned 32-bit value, 0 to 2^31 (R61). -/
def i32Abs (w : Word) : Nat := if w.msb then (2 ^ 32 - w.toNat) % 2 ^ 32 else w.toNat

/-! ## F32: an IEEE 754 binary32 number (R43, R62) -/

/-- The biased exponent `a[30:23]`. -/
def f32Exp (w : Word) : Nat := (w.extractLsb' 23 8).toNat

/-- The fraction field `a[22:0]`. -/
def f32Frac (w : Word) : Nat := (w.extractLsb' 0 23).toNat

/-- `sig = if e = 0 then m else 2^23 + m` (R62). -/
def f32Sig (w : Word) : Nat := if f32Exp w = 0 then f32Frac w else 2 ^ 23 + f32Frac w

/-- `f < 0`: the sign bit, but 0 for both zeros (R62). -/
def f32Negative (w : Word) : Bool := w.msb && f32Sig w != 0

/-- The common denominator 2^149 of all binary32 values: `x = f32Scaled w / f32Unit` exactly (log 11). -/
def f32Unit : Nat := 2 ^ 149

/-- `x * 2^149` for `x = |f| = sig * 2^(max(e, 1) - 150)` (R62; log 11). -/
def f32Scaled (w : Word) : Nat := f32Sig w * 2 ^ (max (f32Exp w) 1 - 1)

/-! ## FRAC: a 16-bit fraction (R43, R107) -/

/-- `a[15:0]`; the high half is ignored whatever it holds (R107). -/
def fracField (w : Word) : Nat := (w.extractLsb' 0 16).toNat

/-! ## Result kinds (R44) -/

/-- BOOL: `zext_32(t)` for a truth value. -/
def boolWord (t : Bool) : Word := (BitVec.ofBool t).setWidth 32

/-- U15 and DIG: `zext_32(u)` for a small unsigned integer. -/
def natWord (n : Nat) : Word := BitVec.ofNat 32 n

end Sys2Proof.Machine
end

