-- ==== Sys2Proof/Machine/State.lean ====
section
/-! DEFINITION. The state of the block and of the port before it (spec 10_state.md R14 to R22, 20_memory.md R31),
the stops, and the state after reset. -/

namespace Sys2Proof.Machine

/-- What the host does in one clock cycle: the input pins of R31 as they stand at the cycle's closing rising edge,
and whether the host samples `r` in the cycle (R144; log 9). -/
structure PortCycle where
  /-- `rst`, synchronous reset, active high. -/
  rst      : Bool
  /-- `cmd_valid`: the host presents a command. -/
  cmdValid : Bool
  /-- `cmd_op`, `cmd_a`, `cmd_b`: the command presented. -/
  cmd      : Command
  /-- The host reads `r` in this cycle. -/
  samplesR : Bool
  deriving DecidableEq, Repr

/-- A cycle in which the host does nothing. Its command pins carry zeros, which no edge reads. -/
def PortCycle.quiet : PortCycle := ⟨false, false, ⟨0#8, 0#32, 0#32⟩, false⟩

/-- The output pins of R31. -/
structure Outputs where
  cmdReady : Bool
  rspValid : Bool
  r        : Word
  st       : BitVec 2
  deriving DecidableEq, Repr

/-- The state of the machine. -/
structure State where
  /-- The result register `R` (R14). While `rv` is false its content is unspecified. -/
  r         : Word
  /-- The result-valid flag `RV` (R14). -/
  rv        : Bool
  /-- The busy flag `BUSY` (R15). -/
  busy      : Bool
  /-- The response pulse `rsp_valid` (R31, R32; log 8). -/
  rspValid  : Bool
  /-- The latch `OP` (R16). -/
  op        : OpCode
  /-- The latch `A` (R16). -/
  a         : Word
  /-- The latch `B` (R16). -/
  b         : Word
  /-- Edges left until the response of the command in flight (R32, R147; log 5). The model's own field. -/
  remaining : Nat
  /-- The number of free values drawn so far (log 2). The model's own field; no statement rests on its value. -/
  draws     : Nat
  /-- The number of host reads of `R` with `RV = 0` so far, which R14 and R144 call faults (log 9). The model's own
  field. -/
  misreads  : Nat
  /-- The host's coming clock cycles, the next one first; when the list has run out the host does nothing
  (log 3). The model's own field. -/
  port      : List PortCycle
  deriving DecidableEq, Repr

/-- Why the machine stops with a fault. Each is a case the spec calls undefined and tells a model to fault. -/
inductive Fault where
  /-- DIV with a zero divisor magnitude (R76; U1). Raised by `execDiv`. Safe: the hardware may go on. -/
  | divByZeroMagnitude
  /-- FROMFLT of an infinity, a NaN or a value of absolute value 2^31 or more (R65; U2). Raised by `execFromflt`.
  Safe: the hardware may go on. -/
  | fromfltOutOfDomain
  deriving DecidableEq, Repr

/-- Why a command is given no meaning. -/
inductive Refusal where
  /-- An instruction rejected by name in Dispatch.lean because the model has no meaning for it yet. Safe. -/
  | notModelled (mnemonic : String)
  /-- A reserved op code (R46, R123; U3). Raised by the step when it decodes the latched command. Safe. -/
  | reservedOp (op : OpCode)
  deriving DecidableEq, Repr

/-- The state right after reset (R22, R140): `BUSY = 0`, `RV = 0`, no response. `R`, the latches and the model's own
fields have no value in the spec; zero and the empty list are DESIGN CHOICE (log 1, unsafe). -/
def State.reset : State where
  r         := 0#32
  rv        := false
  busy      := false
  rspValid  := false
  op        := 0#8
  a         := 0#32
  b         := 0#32
  remaining := 0
  draws     := 0
  misreads  := 0
  port      := []

end Sys2Proof.Machine
end

