-- ==== Sys2Proof/Machine/Flags.lean ====
section
/-! DEFINITION. The block has no status flags and no condition codes (R18): "no operation records carry, overflow,
zero, negative, inexact or divide-by-zero anywhere". What stands in their place is the read-only status view `ST`
(R19) and the comparator on two magnitudes, whose outcome is never stored but goes to `R` (R90, R98). -/

namespace Sys2Proof.Machine

/-- The status view: `ST[0] = BUSY`, `ST[1] = RV` (R19). -/
def State.st (s : State) : BitVec 2 := BitVec.ofBool s.rv ++ BitVec.ofBool s.busy

/-- `lt_m = bool(a.mag < b.mag)`, an unsigned 31-bit comparison (R90, R98). -/
def magLt (x y : FixedValue) : Bool := decide (x.mag.toNat < y.mag.toNat)

/-- `eq_m = bool(a.mag = b.mag)` (R98). -/
def magEq (x y : FixedValue) : Bool := decide (x.mag.toNat = y.mag.toNat)

end Sys2Proof.Machine
end

