-- ==== Sys2Proof/Machine/Ops.lean ====
section
/-! DEFINITION. The named operations on the registers and the port, which meanings and the step share. The block has
no memory (R30) and takes no exception (R120, R127), so there is no operation over memory, no exception entry and no
return from one. -/

namespace Sys2Proof.Machine

/-! ## The result register -/

/-- The response (R32): "in one step it writes the result of the accepted command to `R`, sets `RV = 1`, sets
`BUSY = 0` and raises `rsp_valid`". -/
def State.writeR (s : State) (v : Word) : State :=
  { s with r := v, rv := true, busy := false, rspValid := true, remaining := 0 }

/-- How every defined command ends: `R <- v` (R7, R14), and nothing else is written. -/
def respond (v : Word) (s : State) : Host.Outcome State Fault Refusal := .next (s.writeR v)

/-- What a host that reads `R` sees: the result when `RV = 1`, and an unspecified value when `RV = 0` (R36; U4; log 9),
which is a free value and not the content of the field. -/
def State.readR (s : State) : Word := if s.rv then s.r else Config.freeRead s.misreads

/-- `R` takes an unspecified value: a fresh free value (R14, R22; log 2). -/
def State.blurR (s : State) : State :=
  { s with r := Config.freeResult s.draws, draws := s.draws + 1 }

/-! ## The port -/

/-- The host's next clock cycle; quiet when the list has run out (log 3). -/
def State.cycle (s : State) : PortCycle := s.port.headD .quiet

/-- In its next clock cycle the host reads `r` while the flag `RV` is 0: the read that R14 and R144 call a fault
(log 9). -/
def State.misread (s : State) : Bool := s.cycle.samplesR && !s.rv

/-- The state with the next clock cycle taken off the port. A read of `r` in it has no effect on the block (R36); one
with `RV = 0` is counted as the host's fault (R14; log 9). -/
def State.popCycle (s : State) : State :=
  { s with port := s.port.tail, misreads := s.misreads + s.misread.toNat }

/-- The output pins in a clock cycle (R31): `cmd_ready` is `!BUSY`; while `rst = 1` it is 0, and so are `rsp_valid`
and `ST` (R140). The pin `r` shows what a read of `R` sees (log 9). -/
def State.outputs (s : State) (rst : Bool) : Outputs where
  cmdReady := !rst && !s.busy
  rspValid := !rst && s.rspValid
  r        := s.readR
  st       := if rst then 0#2 else s.st

/-! ## The latches -/

/-- The latches `OP`, `A`, `B` take the three fields of a command at once (R16, R32). -/
def State.latch (s : State) (c : Command) : State := { s with op := c.op, a := c.a, b := c.b }

/-- The command in the latches. -/
def State.latched (s : State) : Command := ⟨s.op, s.a, s.b⟩

/-! ## The edges at which no result is written -/

/-- A rising edge with `rst = 1` (R140): `BUSY` and `RV` become 0, work in progress is abandoned, and `R` and the
latches become unspecified (log 2). -/
def State.resetEdge (s : State) : State :=
  { s with
    r         := Config.freeResult s.draws
    rv        := false
    busy      := false
    rspValid  := false
    op        := Config.freeOp s.draws
    a         := Config.freeA s.draws
    b         := Config.freeB s.draws
    remaining := 0
    draws     := s.draws + 1 }

/-- Acceptance (R32): "the block samples all 72 bits of `cmd` at once, sets `BUSY = 1` and `RV = 0`"; the response is
`LAT(op)` edges away (R147), and `R` is unspecified until then (R14). -/
def State.acceptEdge (c : Command) (s : State) : State :=
  { (s.latch c).blurR with
    rv        := false
    busy      := true
    rspValid  := false
    remaining := Config.latency s.draws c.op c.a c.b }

/-- An edge at which the command in flight does not respond yet: `R` stays unspecified (R144), and a command
presented has no effect (R32, R143). -/
def State.waitEdge (s : State) : State :=
  { s.blurR with rspValid := false, remaining := s.remaining - 1 }

/-- An edge of an idle block to which no command is presented: it "keeps `R` and `RV`" (60_exceptions.md, H6), and
the one-cycle pulse `rsp_valid` is over (R31). -/
def State.idleEdge (s : State) : State := { s with rspValid := false }

/-- The state in which a command is in flight and due at the next edge, the host being quiet in that cycle: where
the next step runs this command (log 4). -/
def State.placeCommand (s : State) (c : Command) : State :=
  { s.latch c with
    rv := false, busy := true, rspValid := false, remaining := 1, port := PortCycle.quiet :: s.port }

end Sys2Proof.Machine
end

