-- ==== Sys2Proof/Machine/Arith.lean ====
section
/-! DEFINITION. Arithmetic: ADD, SUB, MUL, DIV (spec 41_arith.md R70 to R77). -/

namespace Sys2Proof.Machine

/-- ADD's value, with the branch structure of R71. -/
def addValue (x y : FixedValue) : FixedValue :=
  if x.sign ≠ y.sign ∧ y.mag.toNat > x.mag.toNat then ⟨y.sign, wrapMag (y.mag.toNat - x.mag.toNat)⟩
  else if x.sign ≠ y.sign then ⟨x.sign, wrapMag (x.mag.toNat - y.mag.toNat)⟩
  else ⟨x.sign, wrapMag (x.mag.toNat + y.mag.toNat)⟩

/-- ADD (R71). -/
def execAdd (a b : Word) (s : State) : Host.Outcome State Fault Refusal := respond (pack (addValue (fx a) (fx b))) s

/-- SUB's value, with the branch structure of R72. -/
def subValue (x y : FixedValue) : FixedValue :=
  if x.sign = y.sign ∧ y.mag.toNat > x.mag.toNat then ⟨!y.sign, wrapMag (y.mag.toNat - x.mag.toNat)⟩
  else if x.sign = y.sign then ⟨x.sign, wrapMag (x.mag.toNat - y.mag.toNat)⟩
  else ⟨x.sign, wrapMag (x.mag.toNat + y.mag.toNat)⟩

/-- SUB (R72). -/
def execSub (a b : Word) (s : State) : Host.Outcome State Fault Refusal := respond (pack (subValue (fx a) (fx b))) s

/-- One step of R73's loop: "conditionally add `left.magnitude` right-shifted by the bit's positional weight when
that bit is set". -/
def mulStep (aMag fp acc k : Nat) : Nat := if fp.testBit (Config.mulSteps - k) then acc + (aMag >>> k) else acc

/-- R73's accumulator: the direct multiply by the right operand's integer part, then `k = 1` to 16. -/
def mulAcc (x y : Mag) : Nat :=
  (List.range' 1 Config.mulSteps).foldl (mulStep x.toNat (fracPart y)) (x.toNat * intPart y)

/-- MUL's value (R73). -/
def mulValue (x y : FixedValue) : FixedValue := ⟨x.sign ^^ y.sign, wrapMag (mulAcc x.mag y.mag)⟩

/-- MUL (R73). -/
def execMul (a b : Word) (s : State) : Host.Outcome State Fault Refusal := respond (pack (mulValue (fx a) (fx b))) s

/-- DIV's dividend `n = a.mag << 16` (R75). -/
def divDividend (x : Mag) : Nat := x.toNat <<< Config.divShift

/-- DIV's value for a divisor magnitude that is not zero (R75). -/
def divValue (x y : FixedValue) : FixedValue := ⟨x.sign ^^ y.sign, wrapMag (divDividend x.mag / y.mag.toNat)⟩

/-- DIV is defined when the divisor's magnitude is not zero (R75, R76). -/
def divDefined (y : FixedValue) : Bool := y.mag.toNat != 0

/-- DIV (R75); with a zero divisor magnitude "a model treats it as a fault" (R76). -/
def execDiv (a b : Word) (s : State) : Host.Outcome State Fault Refusal :=
  if divDefined (fx b) then respond (pack (divValue (fx a) (fx b))) s else .fault .divByZeroMagnitude

/-- The restoring loop of R77, for the dividend bits below the first argument: a partial remainder and a quotient.
No meaning calls it: it is the iterative divider the spec says "yields the same truncated quotient". -/
def restoringLoop (n d : Nat) : Nat → Nat → Nat → Nat × Nat
  | 0, rem, q => (rem, q)
  | i + 1, rem, q =>
    let rem := (rem <<< 1) ||| (n.testBit i).toNat
    if rem ≥ d then restoringLoop n d i (rem - d) (q ||| (1 <<< i)) else restoringLoop n d i rem q

/-- The quotient of the iterative divider (R77). -/
def restoringQuotient (n d : Nat) : Nat := (restoringLoop n d Config.divSteps 0 0).2

end Sys2Proof.Machine
end

