-- ==== Sys2Proof/Machine/Compare.lean ====
section
/-! DEFINITION. Comparison: LT, GT, LE, GE, EQ, NE (spec 42_compare.md R90 to R96). -/

namespace Sys2Proof.Machine

/-- LT's truth value, the four cases of R91. -/
def ltTruth (x y : FixedValue) : Bool :=
  if x.sign && !y.sign then true
  else if x.sign && y.sign then magLt y x
  else if !x.sign && !y.sign then magLt x y
  else false

/-- GT's truth value, the four cases of R92. -/
def gtTruth (x y : FixedValue) : Bool :=
  if !x.sign && y.sign then true
  else if x.sign && y.sign then magLt x y
  else if !x.sign && !y.sign then magLt y x
  else false

/-- LT (R91). -/
def execLt (a b : Word) (s : State) : Host.Outcome State Fault Refusal := respond (boolWord (ltTruth (fx a) (fx b))) s

/-- GT (R92). -/
def execGt (a b : Word) (s : State) : Host.Outcome State Fault Refusal := respond (boolWord (gtTruth (fx a) (fx b))) s

/-- LE, the negation of GT (R93). -/
def execLe (a b : Word) (s : State) : Host.Outcome State Fault Refusal := respond (boolWord (!gtTruth (fx a) (fx b))) s

/-- GE, the negation of LT (R94). -/
def execGe (a b : Word) (s : State) : Host.Outcome State Fault Refusal := respond (boolWord (!ltTruth (fx a) (fx b))) s

/-- EQ, equality of the magnitudes only (R95). -/
def execEq (a b : Word) (s : State) : Host.Outcome State Fault Refusal := respond (boolWord (magEq (fx a) (fx b))) s

/-- NE, inequality of the magnitudes only (R96). -/
def execNe (a b : Word) (s : State) : Host.Outcome State Fault Refusal := respond (boolWord (!magEq (fx a) (fx b))) s

end Sys2Proof.Machine
end

