-- ==== Sys2Proof/Machine/Construct.lean ====
section
/-! DEFINITION. Construction: FROMINT and FROMFLT (spec 40_construct.md R60 to R65). -/

namespace Sys2Proof.Machine

/-- FROMINT's value: `sign = (n < 0)`, `mag = (|n| << 16) mod 2^31` (R61). -/
def fromIntValue (a : Word) : FixedValue := ⟨i32Negative a, wrapMag (i32Abs a <<< Config.fracBits)⟩

/-- FROMINT (R61). -/
def execFromint (a : Word) (s : State) : Host.Outcome State Fault Refusal := respond (pack (fromIntValue a)) s

/-- The loop of R63 on a remainder `r / unit`: double it, take its integer part as the next fraction bit, most
significant first, subtract that back out. The number of steps is the first argument; there is no early exit. -/
def extractLoop (unit : Nat) : Nat → Nat → Nat → Nat
  | 0, _, fr => fr
  | steps + 1, r, fr =>
    let bit := 2 * r / unit
    extractLoop unit steps (2 * r - bit * unit) (2 * fr + bit)

/-- `extract16(r0)` for `r0 = r / unit` (R63). -/
def extract16 (unit r : Nat) : Nat := extractLoop unit Config.extractSteps r 0

/-- FROMFLT is defined for an exponent field `e <= 157`, that is for `|f| < 2^31` (R62, R65). -/
def fromFltDefined (a : Word) : Bool := decide (f32Exp a < Config.floatExpLimit)

/-- FROMFLT's value on a defined input: `ip = floor(x)`, `fr = extract16(x - ip)`, `mag = ((ip << 16) + fr) mod 2^31`
(R62). -/
def fromFltValue (a : Word) : FixedValue :=
  let ip := f32Scaled a / f32Unit
  let fr := extract16 f32Unit (f32Scaled a - ip * f32Unit)
  ⟨f32Negative a, wrapMag ((ip <<< Config.fracBits) + fr)⟩

/-- FROMFLT (R62); on the inputs of R65 "a model faults". -/
def execFromflt (a : Word) (s : State) : Host.Outcome State Fault Refusal :=
  if fromFltDefined a then respond (pack (fromFltValue a)) s else .fault .fromfltOutOfDomain

end Sys2Proof.Machine
end

