-- ==== Sys2Proof/Machine/Format.lean ====
section
/-! DEFINITION. Formatting: WHOLE and DIG10 (spec 44_format.md R105 to R107). -/

namespace Sys2Proof.Machine

/-- WHOLE: `zext_32(a.mag >> 16)` (R106). -/
def execWhole (a : Word) (s : State) : Host.Outcome State Fault Refusal := respond (natWord (intPart (fx a).mag)) s

/-- DIG10: `zext_32(a[15:0] * 10)`, the digit at bits 19 to 16 and the next fraction at bits 15 to 0 (R107). -/
def execDig10 (a : Word) (s : State) : Host.Outcome State Fault Refusal :=
  respond (natWord (fracField a * Config.radix)) s

end Sys2Proof.Machine
end

