-- ==== Sys2Proof/Machine/Helpers.lean ====
section
/-! DEFINITION. Helpers: ABS and SGN (spec 43_helpers.md R100, R101). -/

namespace Sys2Proof.Machine

/-- ABS: the same magnitude with the sign cleared (R100). -/
def execAbs (a : Word) (s : State) : Host.Outcome State Fault Refusal := respond (pack ⟨false, (fx a).mag⟩) s

/-- SGN: the sign bit, "and does not look at the magnitude" (R101). -/
def execSgn (a : Word) (s : State) : Host.Outcome State Fault Refusal := respond (boolWord (fx a).sign) s

end Sys2Proof.Machine
end

