-- ==== Sys2Proof/Machine/Dispatch.lean ====
section
/-! DEFINITION. One arm for each operation of R42: its meaning. -/

namespace Sys2Proof.Machine

/-- The effect of an operation: the response of R32. -/
def exec (i : Instr) (s : State) : Host.Outcome State Fault Refusal :=
  match i with
  -- construction
  | .fromint a => Sys2Proof.Machine.execFromint a s
  | .fromflt a => Sys2Proof.Machine.execFromflt a s
  -- arithmetic
  | .add a b => Sys2Proof.Machine.execAdd a b s
  | .sub a b => Sys2Proof.Machine.execSub a b s
  | .mul a b => Sys2Proof.Machine.execMul a b s
  | .div a b => Sys2Proof.Machine.execDiv a b s
  -- comparison
  | .lt a b => Sys2Proof.Machine.execLt a b s
  | .gt a b => Sys2Proof.Machine.execGt a b s
  | .le a b => Sys2Proof.Machine.execLe a b s
  | .ge a b => Sys2Proof.Machine.execGe a b s
  | .eq a b => Sys2Proof.Machine.execEq a b s
  | .ne a b => Sys2Proof.Machine.execNe a b s
  -- helpers
  | .abs a => Sys2Proof.Machine.execAbs a s
  | .sgn a => Sys2Proof.Machine.execSgn a s
  -- formatting
  | .whole a => Sys2Proof.Machine.execWhole a s
  | .dig10 a => Sys2Proof.Machine.execDig10 a s

end Sys2Proof.Machine
end

