-- ==== Sys2Proof/Machine/Interface.lean ====
section
/-! DEFINITION. The command and response interface (spec 20_memory.md R31 to R33, 70_reset_and_hazards.md R140 to
R145): one rising clock edge, and the atomic transaction of R32. -/

namespace Sys2Proof.Machine

/-- What the command in the latches does: it is decoded (R47), a reserved one is refused (R46), and any other has the
effect of its operation. -/
def State.runLatched (s : State) : Host.Outcome State Fault Refusal :=
  match decodeCommand s.latched with
  | .error (.reservedOp op) => .refused (.reservedOp op)
  | .ok i => exec i s

/-- An edge with a command in flight and `rst = 0`. A reserved or undefined command stops at its first such edge
(R46, R65, R76; log 6). A defined one responds when its latency is over and waits otherwise (R32, R147). -/
def inFlightEdge (s : State) : Host.Outcome State Fault Refusal :=
  match s.runLatched with
  | .next t => if s.remaining ≤ 1 then .next t else .next s.waitEdge
  | .fault f => .fault f
  | .refused x => .refused x

/-- One rising clock edge. First the cycle before it is taken off the port, with the host's read of `r` (R36, R144);
then `rst`, which wins over everything (R126, R141); then the command in flight; then, in an idle block, a command
presented (R32). -/
def clockEdge (s : State) : Host.Outcome State Fault Refusal :=
  let c := s.cycle
  let s := s.popCycle
  if c.rst then .next s.resetEdge
  else if s.busy then inFlightEdge s
  else if c.cmdValid then .next (s.acceptEdge c.cmd)
  else .next s.idleEdge

/-- R32's atomic step `state' = exec(state, op, a, b)` on a whole command: acceptance and response in one. A command
presented while `BUSY = 1` "is not accepted and has no effect". -/
def State.transact (s : State) (c : Command) : Host.Outcome State Fault Refusal :=
  if s.busy then .next s else (s.latch c).runLatched

/-- The block when the response of a command in flight has come, which a host that waits gets (R149); an idle block as
it is. As in R32's atomic step, no time passes. -/
def State.settle (s : State) : Host.Outcome State Fault Refusal := if s.busy then s.runLatched else .next s

end Sys2Proof.Machine
end

