-- ==== Sys2Proof/Machine/Step.lean ====
section
/-! DEFINITION. The step of the machine: one rising clock edge (spec 20_memory.md R31). -/

namespace Sys2Proof.Machine

/-- One step of the machine is one rising edge of `clk`. -/
def step (s : State) : Host.Outcome State Fault Refusal := clockEdge s

/-- The state whose next step runs the command with bits `w`, the bits above `nbits` zero (log 4): the command is in
flight and due. -/
def State.withFetchWord (s : State) (nbits w : Nat) : State :=
  s.placeCommand (Command.ofBits (BitVec.ofNat 72 (w % 2 ^ nbits)))

end Sys2Proof.Machine
end

