-- ==== Sys2Proof/Machine/Render.lean ====
section
/-! DEFINITION. The host's rendering procedure `ToString` (spec 44_format.md R111 to R113): host software on top of
SGN, WHOLE and DIG10. Its commands are transactions with the block (R32); "everything else in the listing" is the
host's own. -/

namespace Sys2Proof.Machine

/-- A character of a rendered string: an ASCII code (R113). -/
abbrev Ascii := BitVec 8

/-- `-` is 0x2D (R113). -/
def Ascii.minus : Ascii := 0x2D#8

/-- `.` is 0x2E (R113). -/
def Ascii.point : Ascii := 0x2E#8

/-- `digitchar(d) = 0x30 + d` (R113). -/
def digitChar (d : Nat) : Ascii := BitVec.ofNat 8 (0x30 + d)

/-- What a host procedure ends in: a value and the block's state after its commands, or the block's stop. -/
abbrev HostRun (α : Type) := Host.Outcome (α × State) Fault Refusal

/-- Run the rest of a host procedure on what the first part ended in. -/
def HostRun.andThen {α β : Type} (o : HostRun α) (k : α → State → HostRun β) : HostRun β :=
  match o with
  | .next (x, s) => k x s
  | .fault f     => .fault f
  | .refused f   => .refused f

/-- One command of a host: a transaction, and the read of `R` after its response (R32, R144). On a busy block R111 and
R52 say nothing, and R32 lets the host keep presenting the command or withdraw it. DESIGN CHOICE (log 14): it keeps
presenting, so the command in flight gets its response first. -/
def issue (c : Command) (s : State) : HostRun Word :=
  match s.settle with
  | .fault f   => .fault f
  | .refused f => .refused f
  | .next u =>
    match u.transact c with
    | .fault f   => .fault f
    | .refused f => .refused f
    | .next t    => .next (t.readR, t)

/-- The decimal digits of `n`, least significant first, `fuel` of them at most, with no leading zeros. -/
def decimalReversed : Nat → Nat → List Ascii
  | 0, _ => []
  | fuel + 1, n =>
    digitChar (n % Config.radix) :: (if n / Config.radix = 0 then [] else decimalReversed fuel (n / Config.radix))

/-- `decimal()` "prints 0 to 32767 with no leading zeros, "0" for 0" (R111): at most five digits. -/
def decimal (n : Nat) : List Ascii := (decimalReversed 5 n).reverse

/-- R111's loop, for at most `digits` steps on the fraction `f`: "for up to a caller-specified digit count ... or
until the fractional remainder reaches zero, whichever comes first". -/
def renderFraction : Nat → BitVec 16 → State → HostRun (List Ascii)
  | 0, _, s => .next ([], s)
  | digits + 1, f, s =>
    if f = 0#16 then .next ([], s)
    else
      (issue (Instr.dig10 (f.setWidth 32)).command s).andThen fun t s =>
        (renderFraction digits (t.extractLsb' 0 16) s).andThen fun rest s =>
          .next (digitChar (t.extractLsb' 16 4).toNat :: rest, s)

/-- `ToString(x, digits)` (R111, R112): the minus sign "iff the sign bit is set", the whole part, the point, and the
fraction, "a single digit `0`" when its field is zero at entry. -/
def toStringRun (x : Word) (digits : Nat) (s : State) : HostRun (List Ascii) :=
  (issue (Instr.sgn x).command s).andThen fun g s =>
    (issue (Instr.whole x).command s).andThen fun w s =>
      let head := (if g = 1#32 then [Ascii.minus] else []) ++ decimal w.toNat ++ [Ascii.point]
      let f := x.extractLsb' 0 16
      if f = 0#16 then .next (head ++ [digitChar 0], s)
      else (renderFraction digits f s).andThen fun frac s => .next (head ++ frac, s)

end Sys2Proof.Machine
end

