-- ==== Sys2Proof/Machine/Script.lean ====
section
/-! DEFINITION. Command scripts, "the nearest thing this block has to a program" (spec 30_encoding.md R52, R53;
60_exceptions.md R136): lines the host executes in order, each command line one transaction with the block (R32).
Names and labels are numbers here; the notation's spelling of them means nothing (log 13). -/

namespace Sys2Proof.Machine

/-- An operand: "a 32-bit literal ... or the name of an earlier host variable, meaning its 32-bit value" (R52). -/
inductive ScriptOperand where
  | lit (w : Word)
  | var (name : Nat)
  deriving DecidableEq, Repr

/-- A line of a script. -/
inductive ScriptLine where
  /-- `name = MNEMONIC operand` or `name = MNEMONIC operand, operand`; a one-operand command has zero in `b` (R45), so `y` is
  the literal 0. R52 has no one-operand line with another second operand; what the model does with one is its own choice
  (DESIGN CHOICE, log 13). -/
  | assign (name : Nat) (op : OpCode) (x y : ScriptOperand)
  /-- `x op= y`, which expands to `x = OP x, y` (R53). R53 has the form for ADD, SUB, MUL and DIV only; with another op
  code the model runs the same expansion (DESIGN CHOICE, log 13). -/
  | compound (name : Nat) (op : OpCode) (y : ScriptOperand)
  /-- `if name goto label`: "a host action, costs no command, and its condition is `name != 0`" (R136). -/
  | ifGoto (name label : Nat)
  /-- `goto label`. -/
  | goto (label : Nat)
  /-- `label:`. -/
  | label (label : Nat)
  deriving DecidableEq, Repr

/-- The host's side of a run: the block, the host variables (a variable not listed is undefined) and the index of the
next line. -/
structure HostState where
  block : State
  vars  : List (Nat × Word)
  line  : Nat
  deriving DecidableEq, Repr

/-- Why a script stops. -/
inductive ScriptStop where
  /-- The line after the last one is reached: the script is over. -/
  | finished
  /-- A line names a variable that has no value: "host variables start undefined" (95_test_vectors.md, Part 3). -/
  | undefinedVariable (name : Nat)
  /-- A line goes to a label that stands nowhere. -/
  | unknownLabel (label : Nat)
  /-- The block's fault. -/
  | fault (f : Fault)
  /-- The block's refusal. -/
  | refused (x : Refusal)
  deriving DecidableEq, Repr

/-- The value of a host variable. -/
def HostState.value (h : HostState) (name : Nat) : Except ScriptStop Word :=
  match h.vars.lookup name with
  | some v => .ok v
  | none   => .error (.undefinedVariable name)

/-- The value of an operand. -/
def HostState.operand (h : HostState) : ScriptOperand → Except ScriptStop Word
  | .lit w    => .ok w
  | .var name => h.value name

/-- `name` receives `v`; the host goes to the next line. -/
def HostState.setVar (h : HostState) (name : Nat) (v : Word) (block : State) : HostState :=
  { block := block, vars := (name, v) :: h.vars.filter (fun p => p.1 != name), line := h.line + 1 }

/-- A command line: issue the command and keep the value of `R` "once the response has arrived" (R52). DESIGN CHOICE
(log 13): both operands are read whatever the op, so on a one-operand line with a second operand other than the literal
0, a form R52 does not have, an undefined `y` stops the script and a defined one is sent in `b`, which the block
ignores (R45). -/
def HostState.command (h : HostState) (name : Nat) (op : OpCode) (x y : ScriptOperand) : Except ScriptStop HostState :=
  match h.operand x, h.operand y with
  | .error e, _ => .error e
  | _, .error e => .error e
  | .ok a, .ok b =>
    match issue ⟨op, a, b⟩ h.block with
    | .next (v, t) => .ok (h.setVar name v t)
    | .fault f     => .error (.fault f)
    | .refused f   => .error (.refused f)

/-- Go to a label. -/
def HostState.jump (h : HostState) (script : List ScriptLine) (label : Nat) : Except ScriptStop HostState :=
  match script.findIdx? (fun l => l == .label label) with
  | some k => .ok { h with line := k }
  | none   => .error (.unknownLabel label)

/-- The host executes one line of a script (R52, R53, R136). -/
def HostState.step (script : List ScriptLine) (h : HostState) : Except ScriptStop HostState :=
  match script[h.line]? with
  | none => .error .finished
  | some (.assign name op x y) => h.command name op x y
  | some (.compound name op y) => h.command name op (.var name) y
  | some (.ifGoto name label) =>
    match h.value name with
    | .ok v    => if v ≠ 0#32 then h.jump script label else .ok { h with line := h.line + 1 }
    | .error e => .error e
  | some (.goto label) => h.jump script label
  | some (.label _) => .ok { h with line := h.line + 1 }

end Sys2Proof.Machine
end

