-- ==== Sys2Proof/Safety.lean ====
section
/-! DEFINITION. What claims are stated in terms of: the commands a host may issue, what a host must keep to, and the
consistency of a state. -/

namespace Sys2Proof.Machine

/-- The operation has a defined result: it is neither U1 (R76) nor U2 (R65). -/
def instrDefined : Instr → Bool
  | .fromint _ => true
  | .fromflt a => fromFltDefined a
  | .add _ _   => true
  | .sub _ _   => true
  | .mul _ _   => true
  | .div _ b   => divDefined (fx b)
  | .lt _ _    => true
  | .gt _ _    => true
  | .le _ _    => true
  | .ge _ _    => true
  | .eq _ _    => true
  | .ne _ _    => true
  | .abs _     => true
  | .sgn _     => true
  | .whole _   => true
  | .dig10 _   => true

/-- A host may issue the command: it is an operation (R46), and a defined one (R65, R76). -/
def mayIssue (c : Command) : Bool :=
  match decodeCommand c with
  | .ok i => instrDefined i
  | .error _ => false

/-- What a command of the block gives, "a function of that command's `op`, `a` and `b` alone" (R23): the word its
response writes to `R`, or nothing for a reserved or undefined command. -/
def resultOf (c : Command) : Option Word :=
  match decodeCommand c with
  | .error _ => none
  | .ok i =>
    match exec i .reset with
    | .next t    => some t.r
    | .fault _   => none
    | .refused _ => none

/-- `val(w) = (-1)^w.sign * w.mag / 2^16`, the rational number a word stands for (R8). "Every rule is stated on the
bits": no meaning uses it. -/
def fxVal (w : Word) : ℚ := (if (fx w).sign then -1 else 1) * ((fx w).mag.toNat : ℚ) / 2 ^ 16

/-- The consistency of a state. `BUSY` and `RV` are never both 1 (R15); a command in flight has at least one edge to
go (R32) and an idle block none; a response pulse comes with a valid result (R32); and a valid `R` holds the result of
the command that was accepted last (R14, R23), which the latches still hold (R16). -/
def State.Inv (s : State) : Prop :=
  (s.busy = true → s.rv = false) ∧
  (s.busy = true → 1 ≤ s.remaining) ∧
  (s.busy = false → s.remaining = 0) ∧
  (s.rspValid = true → s.rv = true) ∧
  (s.rv = true → resultOf s.latched = some s.r)

/-- In its next clock cycle the host reads `R` only when `RV = 1` (R144): it makes no read that R14 calls a fault. -/
def State.HostReadsValid (s : State) : Prop := s.cycle.samplesR = true → s.rv = true

/-- In its next clock cycle a command the host presents to a block that can take it is one it may issue (R46, R65,
R76). -/
def State.HostIssuesDefined (s : State) : Prop :=
  s.cycle.cmdValid = true → s.busy = false → s.cycle.rst = false → mayIssue s.cycle.cmd = true

/-- A command in flight is one the host may issue. -/
def State.FlightDefined (s : State) : Prop := s.busy = true → mayIssue s.latched = true

/-- `n` steps of the machine, one rising clock edge each, stopping at the first fault or refusal. -/
def runEdges : Nat → State → Host.Outcome State Fault Refusal
  | 0, s => .next s
  | n + 1, s =>
    match step s with
    | .next t    => runEdges n t
    | .fault f   => .fault f
    | .refused x => .refused x

end Sys2Proof.Machine
end

