-- ==== Sys2Proof/Certificates/Slice0/Obligations.lean ====
section
/-! DEFINITION. The statements for the provers. Results are stated in numbers (00_scope.md R6), not in the model's own
result functions, and each result statement gives the whole next state: `R` as the rule says, and every other field as
`Completes` writes it out. -/

open Sys2Proof Sys2Proof.Machine

namespace Sys2Proof.Slice0

/-- `w.sign = w >> 31` (R11). -/
def signNum (w : Word) : Nat := w.toNat / 2 ^ 31

/-- `w.mag = w mod 2^31` (R11). -/
def magNum (w : Word) : Nat := w.toNat % 2 ^ 31

/-- `pack(s, m) = s * 2^31 + m` (R7). -/
def packNum (sign mag : Nat) : Nat := sign * 2 ^ 31 + mag

/-- Exclusive-or of two sign bits. -/
def xorNum (x y : Nat) : Nat := (x + y) % 2

/-- 1 for a true condition, else 0 (R7 `bool`). -/
def boolNum (c : Bool) : Nat := if c then 1 else 0

/-- The operation completes at `s` with `R = v`, `RV = 1`, `BUSY = 0` and a response pulse, no edge left to wait, and
every other field (the latches, the counters, the port) as it was. -/
def Completes (i : Instr) (s : State) (v : Nat) : Prop :=
  ∃ t, exec i s = .next t ∧ t.r.toNat = v ∧
    t = { s with r := t.r, rv := true, busy := false, rspValid := true, remaining := 0 }

/-- The command word `{op, a, b}` decodes to the operation (R40, R47). -/
def EncodedAs (op : OpCode) (a b : Word) (i : Instr) : Prop := decode (op ++ a ++ b) = .ok i

/-- `R` after the operation, where it has a defined result, as a number; else 0. It is read at the reset state, since
a result does not depend on the state (R23). -/
def resultNum (i : Instr) : Nat := ((resultOf i.command).map BitVec.toNat).getD 0

/-- The exponent field `a[30:23]` of a binary32 number (R62). -/
def expNum (a : Word) : Nat := a.toNat / 2 ^ 23 % 2 ^ 8

/-- `sig` (R62): `m` when the exponent field is 0, else `2^23 + m`, for `m = a[22:0]`. -/
def sigNum (a : Word) : Nat := if expNum a = 0 then a.toNat % 2 ^ 23 else 2 ^ 23 + a.toNat % 2 ^ 23

/-- `x = |f| = sig * 2^(max(e, 1) - 150)`, an exact rational (R62). -/
def floatAbs (a : Word) : ℚ := (sigNum a : ℚ) * (2 : ℚ) ^ ((max (expNum a) 1 : ℤ) - 150)

/-- `s = bool(f < 0)`: `a[31]` when `sig` is not 0, else 0 (R62). -/
def floatSign (a : Word) : Nat := if sigNum a = 0 then 0 else signNum a

/-- The operation reads its `b` field (R45, R47). -/
def readsB : Instr → Bool
  | .fromint _ => false
  | .fromflt _ => false
  | .abs _     => false
  | .sgn _     => false
  | .whole _   => false
  | .dig10 _   => false
  | .add _ _   => true
  | .sub _ _   => true
  | .mul _ _   => true
  | .div _ _   => true
  | .lt _ _    => true
  | .gt _ _    => true
  | .le _ _    => true
  | .ge _ _    => true
  | .eq _ _    => true
  | .ne _ _    => true

/-- The reserved values of `op`, by the ranges R46 lists. -/
def reservedNum (op : Nat) : Prop :=
  op = 0x00 ∨ (0x03 ≤ op ∧ op ≤ 0x0F) ∨ (0x14 ≤ op ∧ op ≤ 0x1F) ∨ (0x26 ≤ op ∧ op ≤ 0x2F) ∨
  (0x32 ≤ op ∧ op ≤ 0x3F) ∨ (0x42 ≤ op ∧ op ≤ 0x4F) ∨ (0x50 ≤ op ∧ op ≤ 0xFF)

/-- In the clock cycle `rst = 0`. -/
def noReset (c : PortCycle) : Prop := c.rst = false

/-- The fraction after `n` DIG10 steps, each fed the result of the one before (R107). -/
def digSteps : Nat → Word → Word
  | 0, f     => f
  | n + 1, f => digSteps n (BitVec.ofNat 32 (resultNum (.dig10 f)))

/-- The digits of `n` DIG10 steps read as one decimal number, `acc` standing before them (R107). -/
def digNumber : Nat → Word → Nat → Nat
  | 0, _, acc     => acc
  | n + 1, f, acc =>
    digNumber n (BitVec.ofNat 32 (resultNum (.dig10 f))) (acc * 10 + resultNum (.dig10 f) / 2 ^ 16)

/-- The number a string of ASCII digits stands for, most significant first. -/
def asciiNumber (l : List Ascii) : Nat := l.foldl (fun n c => n * 10 + (c.toNat - 0x30)) 0

/-- All characters are ASCII digits (R113). -/
def allDigits (l : List Ascii) : Prop := ∀ c ∈ l, 0x30 ≤ c.toNat ∧ c.toNat ≤ 0x39

end Sys2Proof.Slice0

open Sys2Proof.Slice0

/-! ## Encoding -/

/-- Words written out from the table of R42, one of each family, decode to the operation they stand for. -/
def Obligations.SampleWordsDecode : Prop :=
  decode 0x01FFFFFFFD00000000#72 = .ok (.fromint 0xFFFFFFFD#32) ∧
  decode 0x1300038000_00024000#72 = .ok (.div 0x00038000#32 0x00024000#32) ∧
  decode 0x208002000080010000#72 = .ok (.lt 0x80020000#32 0x80010000#32) ∧
  decode 0x3080024000DEADBEEF#72 = .ok (.abs 0x80024000#32) ∧
  decode 0x410000199900000000#72 = .ok (.dig10 0x00001999#32)

/-- Every operation, with every operand at every value, is what its own word decodes to. -/
def Obligations.DecodeOfEncode : Prop := ∀ i : Instr, decode (encode i) = .ok i

/-- R47: a word decodes to an operation exactly when it is that operation's word, up to the `b` field of a
one-operand operation; it is rejected exactly when `op = cmd[71:64]` is not in R42, by that value. -/
def Obligations.DecodingProcedure : Prop :=
  ∀ w : BitVec 72,
    (∀ i, decode w = .ok i ↔
      encode i = if readsB i then w else w &&& 0xFFFFFFFFFF00000000#72) ∧
    (∀ op, decode w = .error (.reservedOp op) ↔
      op = w.extractLsb' 64 8 ∧ ∀ i : Instr, i.opCode ≠ op)

/-- R46: the reserved values of `op` are those of the ranges listed, there are 240 of them, and a latched command with
one of them is refused, at any latency left (that it is refused before it is due is the
model's choice, log 6). -/
def Obligations.ReservedOpsRefused : Prop :=
  (∀ op : OpCode, OpCode.listed op = false ↔ reservedNum op.toNat) ∧
  ((List.range 256).filter (fun n => !OpCode.listed (BitVec.ofNat 8 n))).length = 240 ∧
  (∀ s : State, s.busy = true → noReset s.cycle → reservedNum s.op.toNat →
    step s = .refused (.reservedOp s.op))

/-- R45: the six one-operand operations do not read `b`: whatever it is, the word decodes, and to the same operation;
the assembler puts zero in it. -/
def Obligations.OneOperandIgnoresB : Prop :=
  (∀ i : Instr, readsB i = false → ∀ b : Word, decode (i.opCode ++ i.command.a ++ b) = .ok i) ∧
  (∀ i : Instr, readsB i = false → (encode i).extractLsb' 0 32 = 0#32)

/-! ## The step and the interface -/

/-- A step runs the decoded command: in flight, due at this edge, `rst = 0`, it is `exec` on the state with the
clock cycle taken off the port. -/
def Obligations.StepRunsDueCommand : Prop :=
  ∀ (s : State) (i : Instr), s.busy = true → s.remaining ≤ 1 → noReset s.cycle →
    decodeCommand s.latched = .ok i → step s = exec i s.popCycle

/-- `withFetchWord` places a command where the very next step runs it (the model's convention, log 4). -/
def Obligations.StepRunsPlacedWord : Prop :=
  ∀ (s : State) (w : Nat) (i : Instr), w < 2 ^ 72 → decodeTableWord 72 w = some i →
    step (s.withFetchWord 72 w) =
      exec i { s with
        op := BitVec.ofNat 8 (w / 2 ^ 64), a := BitVec.ofNat 32 (w / 2 ^ 32), b := BitVec.ofNat 32 w,
        rv := false, busy := true, rspValid := false, remaining := 1 }

/-- R32, R145: at acceptance the block samples the whole command, sets `BUSY = 1` and `RV = 0`, raises no response, and
has at least one edge to go (the count of edges is the model's, log 5; that a reserved or undefined command is accepted
like any other is the model's reading, log 6). -/
def Obligations.AcceptanceSamplesCommand : Prop :=
  ∀ s : State, s.busy = false → noReset s.cycle → s.cycle.cmdValid = true →
    ∃ t, step s = .next t ∧ t.latched = s.cycle.cmd ∧ t.busy = true ∧ t.rv = false ∧ t.rspValid = false ∧
      1 ≤ t.remaining ∧ t.port = s.port.tail

/-- R32, R143, R144: a defined command in flight that is not due waits one edge: still `BUSY = 1` and no response, the
latches as they were, one edge fewer to go (the count of edges is the model's, log 5). -/
def Obligations.CommandInFlightWaits : Prop :=
  ∀ s : State, s.busy = true → 1 < s.remaining → noReset s.cycle → mayIssue s.latched = true →
    ∃ t, step s = .next t ∧ t.latched = s.latched ∧ t.busy = true ∧ t.rv = s.rv ∧ t.rspValid = false ∧
      t.remaining = s.remaining - 1 ∧ t.port = s.port.tail

/-- R143: what the host presents to a busy block has no effect: two cycles that differ only in the command pins give
the same outcome. -/
def Obligations.BusyBlockIgnoresCommandPins : Prop :=
  ∀ (s : State) (c d : PortCycle) (rest : List PortCycle), s.busy = true →
    c.rst = d.rst → c.samplesR = d.samplesR →
    step { s with port := c :: rest } = step { s with port := d :: rest } ∧
    (s.outputs c.rst).cmdReady = false

/-- An edge with `rst = 1` gives an idle block without a valid result and without a response, whatever was in flight and
whatever is presented (R140, R141). It forgets every register: two states with the same port and the same counters of
the model become the same state, where no read is counted (the model's choice, log 2: the registers the spec calls
unspecified are free values of the draw counter). -/
def Obligations.ResetEdgeForgets : Prop :=
  ∀ s : State, s.cycle.rst = true →
    (∃ t, step s = .next t ∧ t.busy = false ∧ t.rv = false ∧ t.rspValid = false ∧ t.port = s.port.tail) ∧
    (∀ s' : State, s.cycle.samplesR = false → s'.draws = s.draws → s'.misreads = s.misreads → s'.port = s.port →
      step s' = step s)

/-- R31, R140: the output pins; while `rst = 1`, `cmd_ready`, `rsp_valid` and `ST` are 0, and the pin `r` is not forced.
Else `rsp_valid` shows the field `rspValid` (that the pulse is a register, and which cycle it is, is the model's reading,
log 8). The pin `r` shows `R` while `RV = 1`, and what a read of it sees in every case, under `rst` too (the model's
choice, log 9). -/
def Obligations.OutputPins : Prop :=
  ∀ s : State,
    (s.outputs true).cmdReady = false ∧ (s.outputs true).rspValid = false ∧ (s.outputs true).st = 0#2 ∧
    (s.outputs false).cmdReady = !s.busy ∧ (s.outputs false).rspValid = s.rspValid ∧
    (∀ rst, (s.outputs rst).r = s.readR) ∧ (s.rv = true → (s.outputs false).r = s.r) ∧
    (s.outputs false).st.toNat = 2 * boolNum s.rv + boolNum s.busy

/-- R14, R36, R144: a read of `r` has no effect on what the block does. With `RV = 1` it sees `R`, in a cycle with
`rst = 1` too. With `RV = 0` it sees an unspecified value, a free value whatever `R` holds, and is counted as the host's
fault. (That the count is all the fault does, and the case `rst = 1`, are the model's choice, log 9.) -/
def Obligations.ReadOfResult : Prop :=
  ∀ (s : State) (c : PortCycle) (rest : List PortCycle), c.samplesR = true →
    (s.rv = true → s.readR = s.r ∧
      step { s with port := c :: rest } = step { s with port := { c with samplesR := false } :: rest }) ∧
    (s.rv = false → s.readR = Config.freeRead s.misreads ∧
      step { s with port := c :: rest } =
        step { s with misreads := s.misreads + 1, port := { c with samplesR := false } :: rest })

/-- An idle block to which nothing is presented for `n` cycles keeps `R`, `RV` and the latches (60_exceptions.md, H6; R14;
that the latches stay is the model's reading, log 7). -/
def Obligations.IdleBlockKeepsResult : Prop :=
  ∀ (n : Nat) (s : State), s.busy = false → (∀ c ∈ s.port.take n, noReset c ∧ c.cmdValid = false) →
    ∃ t, runEdges n s = .next t ∧ t.r = s.r ∧ t.rv = s.rv ∧ t.busy = false ∧ t.latched = s.latched ∧
      t.port = s.port.drop n ∧ (0 < n → t.rspValid = false)

/-- R31, R32: `rsp_valid` is 1 for exactly one cycle, the one after an edge that wrote `R` for a command in flight
(which cycle that is between two edges is the model's reading, log 8). -/
def Obligations.ResponsePulseIsOneCycle : Prop :=
  ∀ s t u : State, step s = .next t → t.rspValid = true →
    s.busy = true ∧ s.remaining ≤ 1 ∧ t.rv = true ∧ t.busy = false ∧ (step t = .next u → u.rspValid = false)

/-- R14, R15 as a whole-machine rule: `BUSY` rises only by acceptance, `RV` rises only by a response, and while `RV`
stays 1 over a step without a response `R` does not change. -/
def Obligations.WhatChangesTheFlags : Prop :=
  ∀ s t : State, step s = .next t →
    (s.busy = false → t.busy = true → s.cycle.cmdValid = true ∧ s.cycle.rst = false ∧ t.rv = false) ∧
    (s.rv = false → t.rv = true → s.busy = true ∧ t.busy = false ∧ t.rspValid = true ∧ s.cycle.rst = false) ∧
    (s.rv = true → t.rv = true → t.rspValid = false → s.busy = false → t.r = s.r)

/-! ## Reset and the invariant -/

/-- R22: after reset `BUSY = 0`, `RV = 0`, `ST = 0b00`, no response is shown, the block is ready for a command, and a
read of `R` sees an unspecified value (a free value, log 9). -/
def Obligations.ResetValues : Prop :=
  State.reset.busy = false ∧ State.reset.rv = false ∧ State.reset.st = 0#2 ∧ State.reset.rspValid = false ∧
  (State.reset.outputs false).cmdReady = true ∧ State.reset.readR = Config.freeRead State.reset.misreads

/-- The state after reset is consistent (its `remaining` is the model's own field, log 1). -/
def Obligations.ResetIsConsistent : Prop := State.reset.Inv

/-- Every step keeps a state consistent: `BUSY` and `RV` are never both 1, and a valid `R` is the result of the command
accepted last, which the latches still hold (the model's reading, log 7). -/
def Obligations.StepKeepsConsistency : Prop := ∀ s t : State, s.Inv → step s = .next t → t.Inv

/-- R15, R19: in a consistent state `ST` is never `0b11`. -/
def Obligations.StatusNeverBoth : Prop := ∀ s : State, s.Inv → s.st ≠ 3#2

/-- A host that presents only commands it may issue is never stopped: no fault, no refusal, and the next state meets the
same condition. If it also reads `R` only when `RV = 1`, no read is counted as a fault (log 9). -/
def Obligations.ObedientHostNeverStopped : Prop :=
  ∀ s : State, s.FlightDefined → s.HostIssuesDefined →
    ∃ t, step s = .next t ∧ t.FlightDefined ∧ (s.HostReadsValid → t.misreads = s.misreads)

/-- R32, R149: a defined command presented to an idle block gets its one response after `LAT` edges: until then
`BUSY = 1`, `RV = 0` and no response; then `R` is its result, `RV = 1`, `BUSY = 0`, and the pulse is raised (`LAT` is a
free value, log 5; that the latches still hold the command after the response is the model's reading, log 7). -/
def Obligations.AcceptedCommandGetsItsResponse : Prop :=
  ∀ (s : State) (c : PortCycle) (rest : List PortCycle) (lat : Nat),
    s.busy = false → s.port = c :: rest → noReset c → c.cmdValid = true → mayIssue c.cmd = true →
    lat = Config.latency s.draws c.cmd.op c.cmd.a c.cmd.b → (∀ d ∈ rest.take lat, noReset d) →
    1 ≤ lat ∧
    (∀ k, 1 ≤ k → k ≤ lat →
      ∃ u, runEdges k s = .next u ∧ u.busy = true ∧ u.rv = false ∧ u.rspValid = false ∧ u.latched = c.cmd) ∧
    (∃ t, runEdges (lat + 1) s = .next t ∧ resultOf c.cmd = some t.r ∧ t.rv = true ∧ t.busy = false ∧
      t.rspValid = true ∧ t.latched = c.cmd ∧ t.port = rest.drop lat)

/-- R32: the atomic step on a whole command and the run of clock edges end in the same state, but for the model's own
counters and port. -/
def Obligations.TransactionIsTheRunOfEdges : Prop :=
  ∀ (s : State) (c : PortCycle) (rest : List PortCycle) (lat : Nat),
    s.busy = false → s.port = c :: rest → noReset c → c.cmdValid = true → mayIssue c.cmd = true →
    lat = Config.latency s.draws c.cmd.op c.cmd.a c.cmd.b → (∀ d ∈ rest.take lat, noReset d) →
    ∃ t, s.transact c.cmd = .next t ∧
      ∃ u, runEdges (lat + 1) s = .next u ∧ u = { t with draws := u.draws, misreads := u.misreads, port := rest.drop lat }

/-- R23: what a due command does to `R` depends on the latched command alone: two states with the same latches and
nothing else in common get the same `R`, or the same stop. -/
def Obligations.ResultDependsOnCommandAlone : Prop :=
  ∀ s s' : State, s.busy = true → s'.busy = true → s.remaining ≤ 1 → s'.remaining ≤ 1 → noReset s.cycle →
    noReset s'.cycle → s.latched = s'.latched →
    (∃ t t', step s = .next t ∧ step s' = .next t' ∧ t.r = t'.r ∧ resultOf s.latched = some t.r) ∨
    (∃ f, step s = .fault f ∧ step s' = .fault f) ∨ (∃ x, step s = .refused x ∧ step s' = .refused x)

/-! ## Construction -/

/-- FROMINT (R61; the 32-bit two's complement format and the value for `n = -2^31` are the spec's decision D9): sign
`n < 0`, magnitude `(|n| << 16) mod 2^31`. -/
def Obligations.FromintResult : Prop :=
  ∀ (a b : Word) (s : State),
    EncodedAs 0x01#8 a b (.fromint a) ∧
    Completes (.fromint a) s (packNum (boolNum (a.toInt < 0)) (a.toInt.natAbs * 2 ^ 16 % 2 ^ 31))

/-- FROMINT is exact for `|n| <= 32767` (R61, corner case b): the signed value of `R`, scaled by 2^16, is `n * 2^16`. -/
def Obligations.FromintExactInRange : Prop :=
  ∀ a : Word, a.toInt.natAbs ≤ 32767 →
    (if resultNum (.fromint a) / 2 ^ 31 = 1 then -((resultNum (.fromint a) % 2 ^ 31 : Nat) : ℤ)
      else ((resultNum (.fromint a) % 2 ^ 31 : Nat) : ℤ)) = a.toInt * 2 ^ 16

/-- FROMFLT on its whole defined domain `e <= 157` (R62, R63; format and wrap are the spec's decisions D10, D11):
magnitude `floor(x * 65536) mod 2^31` for the exact rational `x = |f|`, sign `f < 0`. -/
def Obligations.FromfltResult : Prop :=
  ∀ (a b : Word) (s : State), expNum a ≤ 157 →
    EncodedAs 0x02#8 a b (.fromflt a) ∧
    Completes (.fromflt a) s (packNum (floatSign a) (⌊floatAbs a * 65536⌋₊ % 2 ^ 31))

/-- FROMFLT by the shifter of R64 (an inference the spec marks as derived): `sh = max(e, 1) - 134`, and the magnitude is
`sig` shifted by it. -/
def Obligations.FromfltByShift : Prop :=
  ∀ (a : Word) (s : State), expNum a ≤ 157 →
    Completes (.fromflt a) s (packNum (floatSign a)
      (if 134 ≤ max (expNum a) 1 then sigNum a * 2 ^ (max (expNum a) 1 - 134) % 2 ^ 31
       else if 134 - max (expNum a) 1 < 24 then sigNum a / 2 ^ (134 - max (expNum a) 1) else 0))

/-- R65: FROMFLT stops on an exponent field of 158 to 255, and on no other input: the largest binary32 below 2^31,
`0x4EFFFFFF`, is defined and gives `0x7F800000`, and `0x4F000000` stops. -/
def Obligations.FromfltStopsOutOfDomain : Prop :=
  (∀ (a : Word) (s : State), exec (.fromflt a) s = .fault .fromfltOutOfDomain ↔ 158 ≤ expNum a) ∧
  (∀ s : State, Completes (.fromflt 0x4EFFFFFF#32) s 0x7F800000 ∧
    exec (.fromflt 0x4F000000#32) s = .fault .fromfltOutOfDomain)

/-! ## Arithmetic -/

/-- ADD, the branch structure of R71 on signs and magnitudes. -/
def Obligations.AddResult : Prop :=
  ∀ (a b : Word) (s : State),
    EncodedAs 0x10#8 a b (.add a b) ∧
    Completes (.add a b) s
      (if signNum a ≠ signNum b ∧ magNum b > magNum a then packNum (signNum b) (magNum b - magNum a)
       else if signNum a ≠ signNum b then packNum (signNum a) (magNum a - magNum b)
       else packNum (signNum a) ((magNum a + magNum b) % 2 ^ 31))

/-- SUB, the branch structure of R72 (the sign on a tie is the spec's decision D14). -/
def Obligations.SubResult : Prop :=
  ∀ (a b : Word) (s : State),
    EncodedAs 0x11#8 a b (.sub a b) ∧
    Completes (.sub a b) s
      (if signNum a = signNum b ∧ magNum b > magNum a then packNum (1 - signNum b) (magNum b - magNum a)
       else if signNum a = signNum b then packNum (signNum a) (magNum a - magNum b)
       else packNum (signNum a) ((magNum a + magNum b) % 2 ^ 31))

/-- SUB is ADD with the right operand's sign bit flipped, on every state (R72, an inference the spec marks as
derived). -/
def Obligations.SubIsAddOfFlipped : Prop :=
  ∀ (a b : Word) (s : State), exec (.sub a b) s = exec (.add a (b ^^^ 0x80000000#32)) s

/-- Where no magnitude overflows, ADD and SUB are exact on the rational values of the words (R8 `val`): the signs that
make the magnitudes subtract, or a sum of magnitudes below 2^31. -/
def Obligations.AddSubExactInRange : Prop :=
  ∀ a b r : Word,
    (resultOf (Instr.add a b).command = some r → (signNum a ≠ signNum b ∨ magNum a + magNum b < 2 ^ 31) →
      fxVal r = fxVal a + fxVal b) ∧
    (resultOf (Instr.sub a b).command = some r → (signNum a = signNum b ∨ magNum a + magNum b < 2 ^ 31) →
      fxVal r = fxVal a - fxVal b)

/-- MUL (R73): the direct multiply by the integer part, then for `k = 1` to 16 the left magnitude shifted right by `k`
for each set fraction bit, wrapped; the sign is the exclusive-or. -/
def Obligations.MulResult : Prop :=
  ∀ (a b : Word) (s : State),
    EncodedAs 0x12#8 a b (.mul a b) ∧
    Completes (.mul a b) s (packNum (xorNum (signNum a) (signNum b))
      ((magNum a * (magNum b / 2 ^ 16) +
        ∑ k ∈ Finset.Icc 1 16, if (magNum b % 2 ^ 16).testBit (16 - k) then magNum a / 2 ^ k else 0) % 2 ^ 31))

/-- MUL in closed form (R74, an inference the spec marks as derived): the partial products `A_i B_j 2^(i+j-16)` with
`i + j >= 16`, wrapped. -/
def Obligations.MulIsSumOfKeptPartialProducts : Prop :=
  ∀ (a b : Word) (s : State),
    Completes (.mul a b) s (packNum (xorNum (signNum a) (signNum b))
      ((∑ i ∈ Finset.range 31, ∑ j ∈ Finset.range 31,
        if 16 ≤ i + j ∧ (magNum a).testBit i ∧ (magNum b).testBit j then 2 ^ (i + j - 16) else 0) % 2 ^ 31))

/-- MUL against the widened product `W = (a.mag * b.mag) >> 16` (R74 b, derived): where `W` fits 31 bits, the magnitude
is at most `W` and at least `W - 15`. -/
def Obligations.MulWithinFifteenOfWidened : Prop :=
  ∀ a b : Word, magNum a * magNum b / 2 ^ 16 < 2 ^ 31 →
    resultNum (.mul a b) % 2 ^ 31 ≤ magNum a * magNum b / 2 ^ 16 ∧
    magNum a * magNum b / 2 ^ 16 ≤ resultNum (.mul a b) % 2 ^ 31 + 15

/-- DIV with a divisor magnitude that is not zero (R75): the truncated quotient `q` of `a.mag << 16`, characterised by
`q * b.mag <= a.mag << 16 < (q + 1) * b.mag`, wrapped; the sign is the exclusive-or. -/
def Obligations.DivResult : Prop :=
  ∀ (a b : Word) (s : State), magNum b ≠ 0 →
    EncodedAs 0x13#8 a b (.div a b) ∧
    ∃ q, q * magNum b ≤ magNum a * 2 ^ 16 ∧ magNum a * 2 ^ 16 < (q + 1) * magNum b ∧
      Completes (.div a b) s (packNum (xorNum (signNum a) (signNum b)) (q % 2 ^ 31))

/-- R76: DIV stops on a zero divisor magnitude, for either sign and every dividend, and on nothing else. -/
def Obligations.DivStopsOnZeroMagnitude : Prop :=
  ∀ (a b : Word) (s : State), exec (.div a b) s = .fault .divByZeroMagnitude ↔ magNum b = 0

/-- The iterative divider of R77 yields the truncated quotient, for every dividend of 47 bits. -/
def Obligations.RestoringDividerDivides : Prop :=
  ∀ n d : Nat, n < 2 ^ 47 → d ≠ 0 → restoringQuotient n d = n / d

/-- The laws that R78 says hold: `a + 0 = a` and `a * 1 = a` bit for bit, `a - a` has magnitude 0 and the sign of `a`,
`a + b` and `b + a` agree in magnitude and differ in sign exactly on a tie of opposite signs, and MUL is commutative
bit for bit (R74 a, derived). -/
def Obligations.ArithmeticLawsThatHold : Prop :=
  (∀ a : Word, resultNum (.add a 0#32) = a.toNat) ∧
  (∀ a : Word, resultNum (.mul a 0x00010000#32) = a.toNat) ∧
  (∀ a : Word, resultNum (.sub a a) = packNum (signNum a) 0) ∧
  (∀ a b : Word, resultNum (.add a b) % 2 ^ 31 = resultNum (.add b a) % 2 ^ 31 ∧
    (resultNum (.add a b) ≠ resultNum (.add b a) ↔ signNum a ≠ signNum b ∧ magNum a = magNum b)) ∧
  (∀ (a b : Word) (s : State), exec (.mul a b) s = exec (.mul b a) s)

/-! ## Comparison -/

/-- LT (R91; the case of a non-negative left and a negative right operand is the spec's decision D13). -/
def Obligations.LtResult : Prop :=
  ∀ (a b : Word) (s : State),
    EncodedAs 0x20#8 a b (.lt a b) ∧
    Completes (.lt a b) s
      (if signNum a = 1 ∧ signNum b = 0 then 1
       else if signNum a = 1 ∧ signNum b = 1 then boolNum (magNum a > magNum b)
       else if signNum a = 0 ∧ signNum b = 0 then boolNum (magNum a < magNum b)
       else 0)

/-- GT (R92; the case of a negative left and a non-negative right operand is the spec's decision D13). -/
def Obligations.GtResult : Prop :=
  ∀ (a b : Word) (s : State),
    EncodedAs 0x21#8 a b (.gt a b) ∧
    Completes (.gt a b) s
      (if signNum a = 0 ∧ signNum b = 1 then 1
       else if signNum a = 1 ∧ signNum b = 1 then boolNum (magNum a < magNum b)
       else if signNum a = 0 ∧ signNum b = 0 then boolNum (magNum a > magNum b)
       else 0)

/-- LE is the negation of GT (R93). -/
def Obligations.LeNegatesGt : Prop :=
  ∀ (a b : Word) (s : State),
    EncodedAs 0x22#8 a b (.le a b) ∧
    Completes (.le a b) s (1 - resultNum (.gt a b))

/-- GE is the negation of LT (R94). -/
def Obligations.GeNegatesLt : Prop :=
  ∀ (a b : Word) (s : State),
    EncodedAs 0x23#8 a b (.ge a b) ∧
    Completes (.ge a b) s (1 - resultNum (.lt a b))

/-- EQ compares the magnitudes only (R95). -/
def Obligations.EqComparesMagnitudes : Prop :=
  ∀ (a b : Word) (s : State),
    EncodedAs 0x24#8 a b (.eq a b) ∧
    Completes (.eq a b) s (boolNum (magNum a = magNum b))

/-- NE compares the magnitudes only (R96). -/
def Obligations.NeComparesMagnitudes : Prop :=
  ∀ (a b : Word) (s : State),
    EncodedAs 0x25#8 a b (.ne a b) ∧
    Completes (.ne a b) s (boolNum (magNum a ≠ magNum b))

/-- R90: each comparison completes on every pair of words with `R` 0 or 1, and changes `R`, `RV`, `BUSY` and the
response alone. -/
def Obligations.ComparisonsAnswerBool : Prop :=
  ∀ (a b : Word) (s : State), ∀ i ∈ [Instr.lt a b, .gt a b, .le a b, .ge a b, .eq a b, .ne a b],
    Completes i s 0 ∨ Completes i s 1

/-- How LT, EQ and GT fit together (R97, an inference the spec marks as derived): never all three and never none;
exactly one holds unless the signs differ and the magnitudes are equal, where EQ and one of the others hold. -/
def Obligations.OrderingAgainstEquality : Prop :=
  ∀ a b : Word,
    resultNum (.lt a b) + resultNum (.eq a b) + resultNum (.gt a b) =
      (if signNum a ≠ signNum b ∧ magNum a = magNum b then 2 else 1) ∧
    resultNum (.lt a b) + resultNum (.gt a b) ≤ 1 ∧ resultNum (.gt a b) = resultNum (.lt b a)

/-- LT is a strict total order on the 2^32 words, in which negative zero is immediately below positive zero (R97,
derived). -/
def Obligations.LtIsStrictTotalOrder : Prop :=
  (∀ a : Word, resultNum (.lt a a) = 0) ∧
  (∀ a b c : Word, resultNum (.lt a b) = 1 → resultNum (.lt b c) = 1 → resultNum (.lt a c) = 1) ∧
  (∀ a b : Word, a ≠ b → resultNum (.lt a b) = 1 ∨ resultNum (.lt b a) = 1) ∧
  (resultNum (.lt 0x80000000#32 0#32) = 1 ∧
    ∀ c : Word, ¬ (resultNum (.lt 0x80000000#32 c) = 1 ∧ resultNum (.lt c 0#32) = 1))

/-! ## Helpers -/

/-- ABS (R100; the meaning is the spec's decision D20): the magnitude with sign 0. -/
def Obligations.AbsResult : Prop :=
  ∀ (a b : Word) (s : State),
    EncodedAs 0x30#8 a b (.abs a) ∧
    Completes (.abs a) s (magNum a)

/-- SGN (R101; the meaning is the spec's decision D20): the sign bit. -/
def Obligations.SgnResult : Prop :=
  ∀ (a b : Word) (s : State),
    EncodedAs 0x31#8 a b (.sgn a) ∧
    Completes (.sgn a) s (signNum a)

/-- Sign propagation (R78, R101): the SGN of a product is the exclusive-or of the SGNs, and of a quotient too when the
divisor's magnitude is not 0, zero results included. -/
def Obligations.SignPropagates : Prop :=
  ∀ a b : Word,
    resultNum (.sgn (BitVec.ofNat 32 (resultNum (.mul a b)))) = xorNum (resultNum (.sgn a)) (resultNum (.sgn b)) ∧
    (magNum b ≠ 0 →
      resultNum (.sgn (BitVec.ofNat 32 (resultNum (.div a b)))) = xorNum (resultNum (.sgn a)) (resultNum (.sgn b)))

/-- SGN and ABS against the comparisons (R100 d, R101 b): SGN is true exactly when LT against +0 is, and EQ holds of
every word and its ABS. -/
def Obligations.HelpersAgainstComparisons : Prop :=
  ∀ a : Word, resultNum (.sgn a) = resultNum (.lt a 0#32) ∧
    resultNum (.eq (BitVec.ofNat 32 (resultNum (.abs a))) a) = 1

/-! ## Formatting -/

/-- WHOLE (R106): `a.mag >> 16`. -/
def Obligations.WholeResult : Prop :=
  ∀ (a b : Word) (s : State),
    EncodedAs 0x40#8 a b (.whole a) ∧
    Completes (.whole a) s (magNum a / 2 ^ 16)

/-- DIG10 (R107): `a[15:0] * 10`; so the digit at bits 19 to 16 is at most 9, bits 31 to 20 are 0, and the high half of
the operand does not matter. -/
def Obligations.Dig10Result : Prop :=
  ∀ (a b : Word) (s : State),
    EncodedAs 0x41#8 a b (.dig10 a) ∧
    Completes (.dig10 a) s (a.toNat % 2 ^ 16 * 10) ∧
    resultNum (.dig10 a) / 2 ^ 16 ≤ 9

/-- The digits of `n` DIG10 steps from the fraction `f` are `floor(f * 10^n / 65536)`, and the fraction left is the
exact remainder (R107 d). -/
def Obligations.DigitsAreTheDecimalExpansion : Prop :=
  ∀ (n : Nat) (f : Word),
    digNumber n f 0 = f.toNat % 2 ^ 16 * 10 ^ n / 2 ^ 16 ∧
    (digSteps n f).toNat % 2 ^ 16 = f.toNat % 2 ^ 16 * 10 ^ n % 2 ^ 16

/-- After 16 or more DIG10 steps the fraction left is 0, from any start (R107 e). -/
def Obligations.FractionEndsInSixteenSteps : Prop :=
  ∀ (n : Nat) (f : Word), 16 ≤ n → (digSteps n f).toNat % 2 ^ 16 = 0

/-! ## Host software -/

/-- The rendering procedure (R111) always completes on an idle block, and the string is: a minus exactly when the sign
bit is set; the whole part as a decimal number of one to five digits; the point; and a fraction that is the single digit
0 for a zero field and otherwise the first digits of the expansion: `digits` of them, or fewer where the expansion ends,
and never a digit after its end (the zero-remainder exit, so no trailing zeros). -/
def Obligations.RenderingIsTheTruncatedExpansion : Prop :=
  ∀ (x : Word) (digits : Nat) (s : State), s.busy = false →
    ∃ (whole frac : List Ascii) (t : State),
      toStringRun x digits s =
        .next ((if signNum x = 1 then [0x2D#8] else []) ++ whole ++ [0x2E#8] ++ frac, t) ∧
      t.busy = false ∧ t.rv = true ∧
      allDigits whole ∧ 1 ≤ whole.length ∧ whole.length ≤ 5 ∧ asciiNumber whole = magNum x / 2 ^ 16 ∧
      (whole.head? = some 0x30#8 → whole.length = 1) ∧
      allDigits frac ∧
      (x.toNat % 2 ^ 16 = 0 → frac = [0x30#8]) ∧
      (x.toNat % 2 ^ 16 ≠ 0 → frac.length ≤ digits ∧
        asciiNumber frac = x.toNat % 2 ^ 16 * 10 ^ frac.length / 2 ^ 16 ∧
        (frac.length < digits → x.toNat % 2 ^ 16 * 10 ^ frac.length % 2 ^ 16 = 0) ∧
        (∀ k < frac.length, x.toNat % 2 ^ 16 * 10 ^ k % 2 ^ 16 ≠ 0))

/-- A command line of a script (R52): a literal operand stands for itself and a name for the value of that host
variable; on an idle block, with operands that have values and a command the host may issue, the name receives the
result, the other host variables keep their values, and the host goes to the next line. (R52 has no one-operand line
with a second operand other than the literal 0; that such a line runs too is the model's choice, log 13.) -/
def Obligations.ScriptCommandLine : Prop :=
  (∀ (h : HostState) (w : Word), h.operand (.lit w) = .ok w) ∧
  (∀ (h : HostState) (v : Nat) (w : Word), h.operand (.var v) = .ok w ↔ h.vars.lookup v = some w) ∧
  (∀ (script : List ScriptLine) (h : HostState) (name : Nat) (op : OpCode) (x y : ScriptOperand) (a b : Word),
    script[h.line]? = some (.assign name op x y) → h.operand x = .ok a → h.operand y = .ok b →
    h.block.busy = false → mayIssue ⟨op, a, b⟩ = true →
    ∃ h', h.step script = .ok h' ∧ h'.line = h.line + 1 ∧
      (h'.vars.lookup name = resultOf ⟨op, a, b⟩) ∧ resultOf ⟨op, a, b⟩ ≠ none ∧
      (∀ other, other ≠ name → h'.vars.lookup other = h.vars.lookup other))

/-- The host's own lines of a script (R53, R136): a compound assignment `x op= y` is the line `x = OP x, y`; `if name
goto label` goes to the label exactly when the value of `name` is not 0; neither it nor a `goto` touches the block or a
variable. (That of two equal labels the first counts, and that a compound line may have an op other than
ADD, SUB, MUL and DIV, are the model's choices, log 13.) -/
def Obligations.ScriptControlFlow : Prop :=
  (∀ (script script' : List ScriptLine) (h : HostState) (name : Nat) (op : OpCode) (y : ScriptOperand),
    script[h.line]? = some (.compound name op y) → script'[h.line]? = some (.assign name op (.var name) y) →
    h.step script = h.step script') ∧
  (∀ (script : List ScriptLine) (h : HostState) (name label : Nat) (v : Word) (before after : List ScriptLine),
    script = before ++ .label label :: after → .label label ∉ before →
    script[h.line]? = some (.ifGoto name label) → h.vars.lookup name = some v →
    h.step script = .ok { h with line := if v.toNat = 0 then h.line + 1 else before.length }) ∧
  (∀ (script : List ScriptLine) (h : HostState) (label : Nat) (before after : List ScriptLine),
    script = before ++ .label label :: after → .label label ∉ before →
    script[h.line]? = some (.goto label) → h.step script = .ok { h with line := before.length })
end

