-- ==== Sys2Proof/Laws/Decode.lean ====
section
/-! SUPPORT. Once for the decoder and the encoder, what they do (spec 30_encoding.md R40 to R47). -/

namespace Sys2Proof

/-- The fields of a command word are read back (R40). -/
theorem Command.ofBits_toBits (c : Command) : Command.ofBits c.toBits = c := by
  rcases c with ⟨op, a, b⟩
  simp only [Command.toBits, Command.ofBits, Command.mk.injEq]
  refine ⟨?_, ?_, ?_⟩ <;> ext i hi <;> simp <;> grind

/-- A command word is its three fields (R40). -/
theorem Command.toBits_ofBits (w : BitVec 72) : (Command.ofBits w).toBits = w := by
  simp only [Command.toBits, Command.ofBits]
  ext i hi
  simp only [BitVec.getElem_append, BitVec.getElem_extractLsb']
  grind

/-- Command words are equal exactly when their fields are. -/
theorem Command.toBits_inj {c d : Command} : c.toBits = d.toBits ↔ c = d :=
  ⟨fun h => by rw [← c.ofBits_toBits, h, d.ofBits_toBits], fun h => by rw [h]⟩

/-- A word written as its fields decodes as its fields do. -/
theorem decode_word (op : OpCode) (a b : Word) : decode (op ++ a ++ b) = decodeCommand ⟨op, a, b⟩ :=
  congrArg decodeCommand (Command.ofBits_toBits ⟨op, a, b⟩)

/-- Everything the decoder can do: an operation with the command's op code and operand `a`, or a rejection by the op
code, which is then not listed. -/
theorem decodeCommand_cases (c : Command) :
    (∃ i, decodeCommand c = .ok i ∧ i.opCode = c.op ∧ i.command.a = c.a ∧
      (i.command.b = c.b ∨ i.command.b = 0#32)) ∨
    (decodeCommand c = .error (.reservedOp c.op) ∧ OpCode.listed c.op = false) := by
  rcases c with ⟨op, a, b⟩
  rcases Bool.eq_false_or_eq_true (OpCode.listed op) with h | h
  · left
    simp only [OpCode.listed, listedOps, List.contains_eq_mem, List.mem_cons, List.not_mem_nil, or_false,
      decide_eq_true_eq] at h
    rcases h with rfl | rfl | rfl | rfl | rfl | rfl | rfl | rfl | rfl | rfl | rfl | rfl | rfl | rfl | rfl | rfl <;>
      exact ⟨_, rfl, rfl, rfl, by first | exact .inl rfl | exact .inr rfl⟩
  · right
    refine ⟨?_, h⟩
    simp only [OpCode.listed, listedOps, List.contains_eq_mem, List.mem_cons, List.not_mem_nil, or_false,
      decide_eq_false_iff_not, not_or] at h
    unfold decodeCommand
    split <;> simp_all

end Sys2Proof
end

