-- ==== Sys2Proof/Laws/Operands.lean ====
section
/-! SUPPORT. The operand and result kinds as numbers (spec 00_scope.md R6, R7; 10_state.md R11). -/

namespace Sys2Proof.Config

@[simp] theorem fracBits_eq : fracBits = 16 := rfl
@[simp] theorem extractSteps_eq : extractSteps = 16 := rfl
@[simp] theorem mulSteps_eq : mulSteps = 16 := rfl
@[simp] theorem divShift_eq : divShift = 16 := rfl
@[simp] theorem divSteps_eq : divSteps = 47 := rfl
@[simp] theorem floatExpLimit_eq : floatExpLimit = 158 := rfl
@[simp] theorem radix_eq : radix = 10 := rfl

end Sys2Proof.Config

namespace Sys2Proof.Machine

/-- `w.mag = w mod 2^31` (R11). -/
theorem fx_mag_toNat (w : Word) : (fx w).mag.toNat = w.toNat % 2 ^ 31 := by simp [fx]

/-- `w.sign = w >> 31` (R11). -/
theorem fx_sign_toNat (w : Word) : (fx w).sign.toNat = w.toNat / 2 ^ 31 := by
  have h := w.isLt
  simp only [fx, BitVec.msb_eq_decide]
  by_cases hw : 2 ^ (32 - 1) ≤ w.toNat
  · simp only [hw, decide_true, Bool.toNat_true]; omega
  · simp only [hw, decide_false, Bool.toNat_false]; omega

/-- `pack(s, m) = s * 2^31 + m` (R7). -/
theorem pack_toNat (v : FixedValue) : (pack v).toNat = v.sign.toNat * 2 ^ 31 + v.mag.toNat := by
  have h := v.mag.isLt
  have e : (pack v).toNat = (BitVec.ofBool v.sign).toNat <<< 31 ||| v.mag.toNat :=
    BitVec.toNat_append (BitVec.ofBool v.sign) v.mag
  rw [e, Nat.shiftLeft_eq, mul_comm, ← Nat.two_pow_add_eq_or_of_lt h, mul_comm]
  cases v.sign <;> simp

/-- The reduction of a magnitude (R12). -/
theorem wrapMag_toNat (n : Nat) : (wrapMag n).toNat = n % 2 ^ 31 := by simp [wrapMag]

/-- Packing loses nothing: the two fields are read back (R11). -/
@[simp] theorem fx_pack (v : FixedValue) : fx (pack v) = v := by
  have hm := v.mag.isLt
  have hp := pack_toNat v
  have hs : v.sign.toNat ≤ 1 := Bool.toNat_le v.sign
  have h1 := fx_sign_toNat (pack v)
  have h2 := fx_mag_toNat (pack v)
  rcases hv : fx (pack v) with ⟨sg, mg⟩
  rcases v with ⟨sg', mg'⟩
  simp only [hv] at h1 h2 hm hp hs
  have e1 : sg.toNat = sg'.toNat := by omega
  have e2 : mg = mg' := BitVec.eq_of_toNat_eq (by omega)
  have e3 : sg = sg' := by cases sg <;> cases sg' <;> first | rfl | cases e1
  rw [e2, e3]

/-- A word is the packing of its fields (R11). -/
@[simp] theorem pack_fx (w : Word) : pack (fx w) = w := by
  apply BitVec.eq_of_toNat_eq
  rw [pack_toNat, fx_sign_toNat, fx_mag_toNat]
  omega

/-- Two signs are the same bit when they are the same number. -/
theorem fx_sign_eq_iff (a b : Word) : (fx a).sign = (fx b).sign ↔ a.toNat / 2 ^ 31 = b.toNat / 2 ^ 31 := by
  rw [← fx_sign_toNat, ← fx_sign_toNat]
  cases (fx a).sign <;> cases (fx b).sign <;> simp

/-- A BOOL result as a number (R44). -/
theorem boolWord_toNat (t : Bool) : (boolWord t).toNat = t.toNat := by cases t <;> rfl

/-- A U15 or DIG result as a number (R44). -/
theorem natWord_toNat {n : Nat} (h : n < 2 ^ 32) : (natWord n).toNat = n := by
  simp only [natWord, BitVec.toNat_ofNat]; exact Nat.mod_eq_of_lt h

/-- `a[15:0]` as a number (R107). -/
theorem fracField_eq (w : Word) : fracField w = w.toNat % 2 ^ 16 := by
  simp [fracField, BitVec.extractLsb'_toNat]

/-- `mag >> 16` as a number (R8). -/
theorem intPart_eq (m : Mag) : intPart m = m.toNat / 2 ^ 16 := Nat.shiftRight_eq_div_pow m.toNat 16

/-- The exponent field as a number (R62). -/
theorem f32Exp_eq (w : Word) : f32Exp w = w.toNat / 2 ^ 23 % 2 ^ 8 := by
  simp [f32Exp, BitVec.extractLsb'_toNat, Nat.shiftRight_eq_div_pow]

/-- The fraction field of a float as a number (R62). -/
theorem f32Frac_eq (w : Word) : f32Frac w = w.toNat % 2 ^ 23 := by simp [f32Frac, BitVec.extractLsb'_toNat]

end Sys2Proof.Machine
end

