-- ==== Sys2Proof/Laws/Loops.lean ====
section
/-! SUPPORT. One equation for each way into a loop, and the domains of the two partial operations. -/

namespace Sys2Proof.Machine

@[simp] theorem extractLoop_zero (unit r fr : Nat) : extractLoop unit 0 r fr = fr := rfl

/-- One step of R63's loop: the remainder becomes `2r mod 1`, in units. -/
theorem extractLoop_succ (unit n r fr : Nat) :
    extractLoop unit (n + 1) r fr = extractLoop unit n (2 * r % unit) (2 * fr + 2 * r / unit) := by
  have h := Nat.div_add_mod (2 * r) unit
  rw [Nat.mul_comm] at h
  have e : 2 * r - 2 * r / unit * unit = 2 * r % unit := by omega
  rw [extractLoop, e]

@[simp] theorem restoringLoop_zero (n d rem q : Nat) : restoringLoop n d 0 rem q = (rem, q) := rfl

/-- One step of R77's loop, in numbers. -/
theorem restoringLoop_succ (n d i rem q : Nat) :
    restoringLoop n d (i + 1) rem q =
      if 2 * rem + n / 2 ^ i % 2 ≥ d then restoringLoop n d i (2 * rem + n / 2 ^ i % 2 - d) (q ||| 1 <<< i)
      else restoringLoop n d i (2 * rem + n / 2 ^ i % 2) q := by
  have hb : (n.testBit i).toNat = n / 2 ^ i % 2 := by
    rw [Nat.testBit_eq_decide_div_mod_eq]
    rcases Nat.mod_two_eq_zero_or_one (n / 2 ^ i) with h | h <;> simp [h]
  have hr : (rem <<< 1 ||| (n.testBit i).toNat) = 2 * rem + n / 2 ^ i % 2 := by
    have hl := Bool.toNat_le (n.testBit i)
    have h := Nat.two_pow_add_eq_or_of_lt (i := 1) (b := (n.testBit i).toNat) (by omega) rem
    rw [← hb, Nat.shiftLeft_eq, Nat.mul_comm, ← h, Nat.pow_one]
  rw [restoringLoop]
  simp only [hr]

/-- DIV's domain as a number (R75). -/
theorem divDefined_iff (b : Word) : divDefined (fx b) = true ↔ b.toNat % 2 ^ 31 ≠ 0 := by
  rw [← fx_mag_toNat]; simp [divDefined]

/-- FROMFLT's domain as a number (R62). -/
theorem fromFltDefined_iff (a : Word) : fromFltDefined a = true ↔ a.toNat / 2 ^ 23 % 2 ^ 8 ≤ 157 := by
  rw [← f32Exp_eq]
  constructor
  · intro h; have h' : f32Exp a < 158 := of_decide_eq_true h; omega
  · intro h; exact decide_eq_true (show f32Exp a < 158 by omega)

/-- An ASCII digit as a number (R113). -/
theorem digitChar_toNat {d : Nat} (h : d ≤ 9) : (digitChar d).toNat = 0x30 + d := by
  rw [digitChar, BitVec.toNat_ofNat]; exact Nat.mod_eq_of_lt (by omega)

end Sys2Proof.Machine
end

