-- ==== Sys2Proof/Laws/State.lean ====
section
/-! SUPPORT. One lemma for each field of State and each named update of it, so that no later proof unfolds a record
update. -/

namespace Sys2Proof.Machine.State

/-! ### writeR -/

@[simp] theorem writeR_r (s : State) (v : Word) : (s.writeR v).r = v := rfl
@[simp] theorem writeR_rv (s : State) (v : Word) : (s.writeR v).rv = true := rfl
@[simp] theorem writeR_busy (s : State) (v : Word) : (s.writeR v).busy = false := rfl
@[simp] theorem writeR_rspValid (s : State) (v : Word) : (s.writeR v).rspValid = true := rfl
@[simp] theorem writeR_op (s : State) (v : Word) : (s.writeR v).op = s.op := rfl
@[simp] theorem writeR_a (s : State) (v : Word) : (s.writeR v).a = s.a := rfl
@[simp] theorem writeR_b (s : State) (v : Word) : (s.writeR v).b = s.b := rfl
@[simp] theorem writeR_remaining (s : State) (v : Word) : (s.writeR v).remaining = 0 := rfl
@[simp] theorem writeR_draws (s : State) (v : Word) : (s.writeR v).draws = s.draws := rfl
@[simp] theorem writeR_misreads (s : State) (v : Word) : (s.writeR v).misreads = s.misreads := rfl
@[simp] theorem writeR_port (s : State) (v : Word) : (s.writeR v).port = s.port := rfl

/-! ### blurR -/

@[simp] theorem blurR_r (s : State) : s.blurR.r = Config.freeResult s.draws := rfl
@[simp] theorem blurR_rv (s : State) : s.blurR.rv = s.rv := rfl
@[simp] theorem blurR_busy (s : State) : s.blurR.busy = s.busy := rfl
@[simp] theorem blurR_rspValid (s : State) : s.blurR.rspValid = s.rspValid := rfl
@[simp] theorem blurR_op (s : State) : s.blurR.op = s.op := rfl
@[simp] theorem blurR_a (s : State) : s.blurR.a = s.a := rfl
@[simp] theorem blurR_b (s : State) : s.blurR.b = s.b := rfl
@[simp] theorem blurR_remaining (s : State) : s.blurR.remaining = s.remaining := rfl
@[simp] theorem blurR_draws (s : State) : s.blurR.draws = s.draws + 1 := rfl
@[simp] theorem blurR_misreads (s : State) : s.blurR.misreads = s.misreads := rfl
@[simp] theorem blurR_port (s : State) : s.blurR.port = s.port := rfl

/-! ### popCycle -/

@[simp] theorem popCycle_r (s : State) : s.popCycle.r = s.r := rfl
@[simp] theorem popCycle_rv (s : State) : s.popCycle.rv = s.rv := rfl
@[simp] theorem popCycle_busy (s : State) : s.popCycle.busy = s.busy := rfl
@[simp] theorem popCycle_rspValid (s : State) : s.popCycle.rspValid = s.rspValid := rfl
@[simp] theorem popCycle_op (s : State) : s.popCycle.op = s.op := rfl
@[simp] theorem popCycle_a (s : State) : s.popCycle.a = s.a := rfl
@[simp] theorem popCycle_b (s : State) : s.popCycle.b = s.b := rfl
@[simp] theorem popCycle_remaining (s : State) : s.popCycle.remaining = s.remaining := rfl
@[simp] theorem popCycle_draws (s : State) : s.popCycle.draws = s.draws := rfl
@[simp] theorem popCycle_misreads (s : State) : s.popCycle.misreads = s.misreads + s.misread.toNat := rfl
@[simp] theorem popCycle_port (s : State) : s.popCycle.port = s.port.tail := rfl

/-! ### latch -/

@[simp] theorem latch_r (s : State) (c : Command) : (s.latch c).r = s.r := rfl
@[simp] theorem latch_rv (s : State) (c : Command) : (s.latch c).rv = s.rv := rfl
@[simp] theorem latch_busy (s : State) (c : Command) : (s.latch c).busy = s.busy := rfl
@[simp] theorem latch_rspValid (s : State) (c : Command) : (s.latch c).rspValid = s.rspValid := rfl
@[simp] theorem latch_op (s : State) (c : Command) : (s.latch c).op = c.op := rfl
@[simp] theorem latch_a (s : State) (c : Command) : (s.latch c).a = c.a := rfl
@[simp] theorem latch_b (s : State) (c : Command) : (s.latch c).b = c.b := rfl
@[simp] theorem latch_remaining (s : State) (c : Command) : (s.latch c).remaining = s.remaining := rfl
@[simp] theorem latch_draws (s : State) (c : Command) : (s.latch c).draws = s.draws := rfl
@[simp] theorem latch_misreads (s : State) (c : Command) : (s.latch c).misreads = s.misreads := rfl
@[simp] theorem latch_port (s : State) (c : Command) : (s.latch c).port = s.port := rfl

/-! ### resetEdge -/

@[simp] theorem resetEdge_r (s : State) : s.resetEdge.r = Config.freeResult s.draws := rfl
@[simp] theorem resetEdge_rv (s : State) : s.resetEdge.rv = false := rfl
@[simp] theorem resetEdge_busy (s : State) : s.resetEdge.busy = false := rfl
@[simp] theorem resetEdge_rspValid (s : State) : s.resetEdge.rspValid = false := rfl
@[simp] theorem resetEdge_op (s : State) : s.resetEdge.op = Config.freeOp s.draws := rfl
@[simp] theorem resetEdge_a (s : State) : s.resetEdge.a = Config.freeA s.draws := rfl
@[simp] theorem resetEdge_b (s : State) : s.resetEdge.b = Config.freeB s.draws := rfl
@[simp] theorem resetEdge_remaining (s : State) : s.resetEdge.remaining = 0 := rfl
@[simp] theorem resetEdge_draws (s : State) : s.resetEdge.draws = s.draws + 1 := rfl
@[simp] theorem resetEdge_misreads (s : State) : s.resetEdge.misreads = s.misreads := rfl
@[simp] theorem resetEdge_port (s : State) : s.resetEdge.port = s.port := rfl

/-! ### acceptEdge -/

@[simp] theorem acceptEdge_r (s : State) (c : Command) : (s.acceptEdge c).r = Config.freeResult s.draws := rfl
@[simp] theorem acceptEdge_rv (s : State) (c : Command) : (s.acceptEdge c).rv = false := rfl
@[simp] theorem acceptEdge_busy (s : State) (c : Command) : (s.acceptEdge c).busy = true := rfl
@[simp] theorem acceptEdge_rspValid (s : State) (c : Command) : (s.acceptEdge c).rspValid = false := rfl
@[simp] theorem acceptEdge_op (s : State) (c : Command) : (s.acceptEdge c).op = c.op := rfl
@[simp] theorem acceptEdge_a (s : State) (c : Command) : (s.acceptEdge c).a = c.a := rfl
@[simp] theorem acceptEdge_b (s : State) (c : Command) : (s.acceptEdge c).b = c.b := rfl
@[simp] theorem acceptEdge_remaining (s : State) (c : Command) : (s.acceptEdge c).remaining = Config.latency s.draws c.op c.a c.b := rfl
@[simp] theorem acceptEdge_draws (s : State) (c : Command) : (s.acceptEdge c).draws = s.draws + 1 := rfl
@[simp] theorem acceptEdge_misreads (s : State) (c : Command) : (s.acceptEdge c).misreads = s.misreads := rfl
@[simp] theorem acceptEdge_port (s : State) (c : Command) : (s.acceptEdge c).port = s.port := rfl

/-! ### waitEdge -/

@[simp] theorem waitEdge_r (s : State) : s.waitEdge.r = Config.freeResult s.draws := rfl
@[simp] theorem waitEdge_rv (s : State) : s.waitEdge.rv = s.rv := rfl
@[simp] theorem waitEdge_busy (s : State) : s.waitEdge.busy = s.busy := rfl
@[simp] theorem waitEdge_rspValid (s : State) : s.waitEdge.rspValid = false := rfl
@[simp] theorem waitEdge_op (s : State) : s.waitEdge.op = s.op := rfl
@[simp] theorem waitEdge_a (s : State) : s.waitEdge.a = s.a := rfl
@[simp] theorem waitEdge_b (s : State) : s.waitEdge.b = s.b := rfl
@[simp] theorem waitEdge_remaining (s : State) : s.waitEdge.remaining = s.remaining - 1 := rfl
@[simp] theorem waitEdge_draws (s : State) : s.waitEdge.draws = s.draws + 1 := rfl
@[simp] theorem waitEdge_misreads (s : State) : s.waitEdge.misreads = s.misreads := rfl
@[simp] theorem waitEdge_port (s : State) : s.waitEdge.port = s.port := rfl

/-! ### idleEdge -/

@[simp] theorem idleEdge_r (s : State) : s.idleEdge.r = s.r := rfl
@[simp] theorem idleEdge_rv (s : State) : s.idleEdge.rv = s.rv := rfl
@[simp] theorem idleEdge_busy (s : State) : s.idleEdge.busy = s.busy := rfl
@[simp] theorem idleEdge_rspValid (s : State) : s.idleEdge.rspValid = false := rfl
@[simp] theorem idleEdge_op (s : State) : s.idleEdge.op = s.op := rfl
@[simp] theorem idleEdge_a (s : State) : s.idleEdge.a = s.a := rfl
@[simp] theorem idleEdge_b (s : State) : s.idleEdge.b = s.b := rfl
@[simp] theorem idleEdge_remaining (s : State) : s.idleEdge.remaining = s.remaining := rfl
@[simp] theorem idleEdge_draws (s : State) : s.idleEdge.draws = s.draws := rfl
@[simp] theorem idleEdge_misreads (s : State) : s.idleEdge.misreads = s.misreads := rfl
@[simp] theorem idleEdge_port (s : State) : s.idleEdge.port = s.port := rfl

/-! ### placeCommand -/

@[simp] theorem placeCommand_r (s : State) (c : Command) : (s.placeCommand c).r = s.r := rfl
@[simp] theorem placeCommand_rv (s : State) (c : Command) : (s.placeCommand c).rv = false := rfl
@[simp] theorem placeCommand_busy (s : State) (c : Command) : (s.placeCommand c).busy = true := rfl
@[simp] theorem placeCommand_rspValid (s : State) (c : Command) : (s.placeCommand c).rspValid = false := rfl
@[simp] theorem placeCommand_op (s : State) (c : Command) : (s.placeCommand c).op = c.op := rfl
@[simp] theorem placeCommand_a (s : State) (c : Command) : (s.placeCommand c).a = c.a := rfl
@[simp] theorem placeCommand_b (s : State) (c : Command) : (s.placeCommand c).b = c.b := rfl
@[simp] theorem placeCommand_remaining (s : State) (c : Command) : (s.placeCommand c).remaining = 1 := rfl
@[simp] theorem placeCommand_draws (s : State) (c : Command) : (s.placeCommand c).draws = s.draws := rfl
@[simp] theorem placeCommand_misreads (s : State) (c : Command) : (s.placeCommand c).misreads = s.misreads := rfl
@[simp] theorem placeCommand_port (s : State) (c : Command) : (s.placeCommand c).port = PortCycle.quiet :: s.port := rfl

/-! ### The latched command, the next cycle and the status view after an update -/

@[simp] theorem latched_writeR (s : State) (v : Word) : (s.writeR v).latched = s.latched := rfl
@[simp] theorem latched_popCycle (s : State) : s.popCycle.latched = s.latched := rfl
@[simp] theorem latched_latch (s : State) (c : Command) : (s.latch c).latched = c := rfl
@[simp] theorem latched_acceptEdge (s : State) (c : Command) : (s.acceptEdge c).latched = c := rfl
@[simp] theorem latched_waitEdge (s : State) : s.waitEdge.latched = s.latched := rfl
@[simp] theorem latched_idleEdge (s : State) : s.idleEdge.latched = s.latched := rfl
@[simp] theorem latched_placeCommand (s : State) (c : Command) : (s.placeCommand c).latched = c := rfl
@[simp] theorem cycle_cons (s : State) (c : PortCycle) (rest : List PortCycle) :
    State.cycle { s with port := c :: rest } = c := rfl
@[simp] theorem cycle_placeCommand (s : State) (c : Command) : (s.placeCommand c).cycle = .quiet := rfl

end Sys2Proof.Machine.State
end

