-- ==== Sys2Proof/Laws/Ops.lean ====
section
/-! SUPPORT. Once for each shared operation, everything it can do: `exec`, the in-flight edge, the clock edge, the
transaction. Later proofs cite these and unfold none of them. -/

namespace Sys2Proof.Machine

/-- The outcome of an operation, apart from the state: the word of its response, or its fault. -/
def answer : Instr → Except Fault Word
  | .fromint a => .ok (pack (fromIntValue a))
  | .fromflt a => if fromFltDefined a then .ok (pack (fromFltValue a)) else .error .fromfltOutOfDomain
  | .add a b   => .ok (pack (addValue (fx a) (fx b)))
  | .sub a b   => .ok (pack (subValue (fx a) (fx b)))
  | .mul a b   => .ok (pack (mulValue (fx a) (fx b)))
  | .div a b   =>
    if divDefined (fx b) then .ok (pack (divValue (fx a) (fx b))) else .error .divByZeroMagnitude
  | .lt a b    => .ok (boolWord (ltTruth (fx a) (fx b)))
  | .gt a b    => .ok (boolWord (gtTruth (fx a) (fx b)))
  | .le a b    => .ok (boolWord (!gtTruth (fx a) (fx b)))
  | .ge a b    => .ok (boolWord (!ltTruth (fx a) (fx b)))
  | .eq a b    => .ok (boolWord (magEq (fx a) (fx b)))
  | .ne a b    => .ok (boolWord (!magEq (fx a) (fx b)))
  | .abs a     => .ok (pack ⟨false, (fx a).mag⟩)
  | .sgn a     => .ok (boolWord (fx a).sign)
  | .whole a   => .ok (natWord (intPart (fx a).mag))
  | .dig10 a   => .ok (natWord (fracField a * Config.radix))

/-- How an answer is given at a state: the response, or the fault. -/
def give (o : Except Fault Word) (s : State) : Host.Outcome State Fault Refusal :=
  match o with
  | .ok v    => respond v s
  | .error f => .fault f

/-- Every operation gives an answer that does not depend on the state (R23). -/
theorem exec_eq_give (i : Instr) (s : State) : exec i s = give (answer i) s := by
  cases i with
  | fromflt a => simp only [exec, execFromflt, answer]; split <;> rfl
  | div a b => simp only [exec, execDiv, answer]; split <;> rfl
  | _ => rfl

/-- Everything `exec` can do: respond with the operation's word, or fault. It never refuses. -/
theorem exec_cases (i : Instr) (s : State) :
    (∃ v, answer i = .ok v ∧ exec i s = .next (s.writeR v)) ∨ (∃ f, answer i = .error f ∧ exec i s = .fault f) := by
  rw [exec_eq_give]
  cases answer i with
  | ok v => exact .inl ⟨v, rfl, rfl⟩
  | error f => exact .inr ⟨f, rfl, rfl⟩

/-- An operation has an answer exactly when it is defined. -/
theorem instrDefined_iff (i : Instr) : instrDefined i = true ↔ ∃ v, answer i = .ok v := by
  cases i with
  | fromflt a => simp only [instrDefined, answer]; split <;> simp_all
  | div a b => simp only [instrDefined, answer]; split <;> simp_all
  | _ => simp [instrDefined, answer]

/-- The result of a command is its operation's answer. -/
theorem resultOf_eq {c : Command} {i : Instr} (h : decodeCommand c = .ok i) :
    resultOf c = (answer i).toOption := by
  rcases exec_cases i .reset with ⟨v, ha, he⟩ | ⟨f, ha, he⟩
  · simp [resultOf, h, he, ha, Except.toOption]
  · simp [resultOf, h, he, ha, Except.toOption]

/-- A command the host may issue decodes to an operation with an answer. -/
theorem mayIssue_iff (c : Command) :
    mayIssue c = true ↔ ∃ i v, decodeCommand c = .ok i ∧ answer i = .ok v := by
  unfold mayIssue
  split
  · rename_i i h; simp [h, instrDefined_iff]
  · rename_i e h; simp [h]

/-- What the latched command does, for one the host may issue. -/
theorem runLatched_of_answer {s : State} {i : Instr} {v : Word} (hd : decodeCommand s.latched = .ok i)
    (ha : answer i = .ok v) : s.runLatched = .next (s.writeR v) := by
  simp [State.runLatched, hd, exec_eq_give, ha, give, respond]

/-- Everything the latched command can do: respond, fault, or be refused. -/
theorem runLatched_cases (s : State) :
    (∃ i v, decodeCommand s.latched = .ok i ∧ answer i = .ok v ∧ s.runLatched = .next (s.writeR v)) ∨
    (∃ i f, decodeCommand s.latched = .ok i ∧ answer i = .error f ∧ s.runLatched = .fault f) ∨
    (∃ op, decodeCommand s.latched = .error (.reservedOp op) ∧ s.runLatched = .refused (.reservedOp op)) := by
  rcases hd : decodeCommand s.latched with ⟨⟨op⟩⟩ | i
  · exact .inr (.inr ⟨op, rfl, by simp [State.runLatched, hd]⟩)
  · rcases ha : answer i with f | v
    · exact .inr (.inl ⟨i, f, rfl, ha, by simp [State.runLatched, hd, exec_eq_give, ha, give]⟩)
    · exact .inl ⟨i, v, rfl, ha, runLatched_of_answer hd ha⟩

/-- The next state of a command the host may issue, at an in-flight edge. -/
theorem inFlightEdge_of_answer {s : State} {i : Instr} {v : Word} (hd : decodeCommand s.latched = .ok i)
    (ha : answer i = .ok v) :
    inFlightEdge s = if s.remaining ≤ 1 then .next (s.writeR v) else .next s.waitEdge := by
  rw [inFlightEdge, runLatched_of_answer hd ha]

/-- An in-flight edge of an undefined command faults, at any latency left (log 6). -/
theorem inFlightEdge_of_fault {s : State} {i : Instr} {f : Fault} (hd : decodeCommand s.latched = .ok i)
    (ha : answer i = .error f) : inFlightEdge s = .fault f := by
  simp [inFlightEdge, State.runLatched, hd, exec_eq_give, ha, give]

/-- An in-flight edge of a reserved command is refused, at any latency left (log 6). -/
theorem inFlightEdge_of_reserved {s : State} {op : OpCode} (hd : decodeCommand s.latched = .error (.reservedOp op)) :
    inFlightEdge s = .refused (.reservedOp op) := by
  simp [inFlightEdge, State.runLatched, hd]

/-- Everything an in-flight edge can do. -/
theorem inFlightEdge_cases (s : State) :
    (∃ i v, decodeCommand s.latched = .ok i ∧ answer i = .ok v ∧ s.remaining ≤ 1 ∧
      inFlightEdge s = .next (s.writeR v)) ∨
    (∃ i v, decodeCommand s.latched = .ok i ∧ answer i = .ok v ∧ 1 < s.remaining ∧
      inFlightEdge s = .next s.waitEdge) ∨
    (∃ i f, decodeCommand s.latched = .ok i ∧ answer i = .error f ∧ inFlightEdge s = .fault f) ∨
    (∃ op, decodeCommand s.latched = .error (.reservedOp op) ∧ inFlightEdge s = .refused (.reservedOp op)) := by
  rcases runLatched_cases s with ⟨i, v, hd, ha, h⟩ | ⟨i, f, hd, ha, -⟩ | ⟨op, hd, -⟩
  · by_cases hr : s.remaining ≤ 1
    · exact .inl ⟨i, v, hd, ha, hr, by simp [inFlightEdge, h, hr]⟩
    · exact .inr (.inl ⟨i, v, hd, ha, by omega, by simp [inFlightEdge, h, hr]⟩)
  · exact .inr (.inr (.inl ⟨i, f, hd, ha, inFlightEdge_of_fault hd ha⟩))
  · exact .inr (.inr (.inr ⟨op, hd, inFlightEdge_of_reserved hd⟩))

/-- A read of a valid result sees it (R36). -/
theorem readR_of_valid {s : State} (h : s.rv = true) : s.readR = s.r := by simp [State.readR, h]

/-- A read with `RV = 0` sees a free value (log 9). -/
theorem readR_of_not_valid {s : State} (h : s.rv = false) : s.readR = Config.freeRead s.misreads := by
  simp [State.readR, h]

/-- After a response a read sees the word it wrote. -/
@[simp] theorem readR_writeR (s : State) (v : Word) : (s.writeR v).readR = v := rfl

/-- A host that reads only valid results makes no faulty read (R144). -/
theorem misread_of_readsValid {s : State} (h : s.HostReadsValid) : s.misread = false := by
  unfold State.HostReadsValid at h
  unfold State.misread
  cases hs : s.cycle.samplesR
  · rfl
  · rw [h hs]; rfl

/-- Everything a step can do. -/
theorem step_cases (s : State) :
    (s.cycle.rst = true ∧ step s = .next s.popCycle.resetEdge) ∨
    (s.cycle.rst = false ∧ s.busy = true ∧ step s = inFlightEdge s.popCycle) ∨
    (s.cycle.rst = false ∧ s.busy = false ∧ s.cycle.cmdValid = true ∧
      step s = .next (s.popCycle.acceptEdge s.cycle.cmd)) ∨
    (s.cycle.rst = false ∧ s.busy = false ∧ s.cycle.cmdValid = false ∧ step s = .next s.popCycle.idleEdge) := by
  simp only [step, clockEdge]
  cases s.cycle.rst <;> cases hb : s.busy <;> cases s.cycle.cmdValid <;> simp [hb]

/-- A step in a cycle without reset. -/
theorem step_of_noReset {s : State} (hr : s.cycle.rst = false) :
    step s = if s.busy then inFlightEdge s.popCycle
      else if s.cycle.cmdValid then .next (s.popCycle.acceptEdge s.cycle.cmd) else .next s.popCycle.idleEdge := by
  rcases step_cases s with ⟨h, -⟩ | ⟨-, hb, h⟩ | ⟨-, hb, hv, h⟩ | ⟨-, hb, hv, h⟩
  · rw [hr] at h; cases h
  · rw [h, hb, if_pos rfl]
  · rw [h, hb, hv, if_neg Bool.false_ne_true, if_pos rfl]
  · rw [h, hb, hv, if_neg Bool.false_ne_true, if_neg Bool.false_ne_true]

/-- A run of no edges. -/
@[simp] theorem runEdges_zero (s : State) : runEdges 0 s = .next s := rfl

/-- A run whose first step goes on is the run from the next state. -/
theorem runEdges_of_step {s t : State} (h : step s = .next t) (n : Nat) : runEdges (n + 1) s = runEdges n t := by
  rw [runEdges, h]

/-- A property that every step keeps holds after every run. -/
theorem runEdges_keeps {P : State → Prop} (hP : ∀ s t, P s → step s = .next t → P t) (n : Nat) (s t : State)
    (hs : P s) (h : runEdges n s = .next t) : P t := by
  induction n generalizing s with
  | zero => cases h; exact hs
  | succ n ih =>
    rw [runEdges] at h
    split at h
    · rename_i u hu; exact ih u (hP s u hs hu) h
    · cases h
    · cases h

/-- A transaction of an idle block with a command the host may issue. -/
theorem transact_of_answer {s : State} {c : Command} {i : Instr} {v : Word} (hb : s.busy = false)
    (hd : decodeCommand c = .ok i) (ha : answer i = .ok v) : s.transact c = .next ((s.latch c).writeR v) := by
  rw [State.transact, hb, if_neg Bool.false_ne_true, runLatched_of_answer (s := s.latch c) hd ha]

/-- An idle block has nothing to wait for. -/
theorem settle_of_idle {s : State} (hb : s.busy = false) : s.settle = .next s := by simp [State.settle, hb]

/-- A block with a command in flight that the host may issue becomes idle with that command's result. -/
theorem settle_of_answer {s : State} {i : Instr} {v : Word} (hb : s.busy = true) (hd : decodeCommand s.latched = .ok i)
    (ha : answer i = .ok v) : s.settle = .next (s.writeR v) := by
  rw [State.settle, hb, if_pos rfl, runLatched_of_answer hd ha]

/-- A host's command on an idle block: its result, and the block after the response. -/
theorem issue_of_answer {s : State} {c : Command} {i : Instr} {v : Word} (hb : s.busy = false)
    (hd : decodeCommand c = .ok i) (ha : answer i = .ok v) : issue c s = .next (v, (s.latch c).writeR v) := by
  simp [issue, settle_of_idle hb, transact_of_answer hb hd ha]

/-- A host's command on a busy block waits for the command in flight (log 14). -/
theorem issue_of_busy {s : State} {c : Command} {j : Instr} {w : Word} (hb : s.busy = true)
    (hd : decodeCommand s.latched = .ok j) (ha : answer j = .ok w) : issue c s = issue c (s.writeR w) := by
  simp [issue, settle_of_answer hb hd ha, settle_of_idle (State.writeR_busy s w)]

end Sys2Proof.Machine
end

