-- ==== Sys2Proof/Laws/PerInstr.lean ====
section
/-! SUPPORT. Facts about operations as syntax, one lemma for each constructor of `Instr`. -/

namespace Sys2Proof.Laws.Listed

/-- The operation is well formed, its op code is one of R42's, and its command carries that op code (R40, R42). -/
def Statement (i : Instr) : Prop :=
  i.wellFormed = true ∧ OpCode.listed i.opCode = true ∧ i.command.op = i.opCode

theorem fromint (a : Word) : Statement (.fromint a) := ⟨rfl, rfl, rfl⟩
theorem fromflt (a : Word) : Statement (.fromflt a) := ⟨rfl, rfl, rfl⟩
theorem add (a b : Word) : Statement (.add a b) := ⟨rfl, rfl, rfl⟩
theorem sub (a b : Word) : Statement (.sub a b) := ⟨rfl, rfl, rfl⟩
theorem mul (a b : Word) : Statement (.mul a b) := ⟨rfl, rfl, rfl⟩
theorem div (a b : Word) : Statement (.div a b) := ⟨rfl, rfl, rfl⟩
theorem lt (a b : Word) : Statement (.lt a b) := ⟨rfl, rfl, rfl⟩
theorem gt (a b : Word) : Statement (.gt a b) := ⟨rfl, rfl, rfl⟩
theorem le (a b : Word) : Statement (.le a b) := ⟨rfl, rfl, rfl⟩
theorem ge (a b : Word) : Statement (.ge a b) := ⟨rfl, rfl, rfl⟩
theorem eq (a b : Word) : Statement (.eq a b) := ⟨rfl, rfl, rfl⟩
theorem ne (a b : Word) : Statement (.ne a b) := ⟨rfl, rfl, rfl⟩
theorem abs (a : Word) : Statement (.abs a) := ⟨rfl, rfl, rfl⟩
theorem sgn (a : Word) : Statement (.sgn a) := ⟨rfl, rfl, rfl⟩
theorem whole (a : Word) : Statement (.whole a) := ⟨rfl, rfl, rfl⟩
theorem dig10 (a : Word) : Statement (.dig10 a) := ⟨rfl, rfl, rfl⟩

end Sys2Proof.Laws.Listed
end

