-- ==== Sys2Proof/Tests/Slice0.lean ====
section
/-! SUPPORT. The model's own tests. Expected words come from the spec: the worked examples of the rules and the tables
T-D1 to T-D11 of 95_test_vectors.md, never from the model. Witnesses for the statements stand at the end. -/

namespace Sys2Proof.Tests

open Sys2Proof.Machine Sys2Proof.Slice0

/-- The state a step goes on to. -/
def after (o : Host.Outcome State Fault Refusal) : Option State :=
  match o with
  | .next t    => some t
  | .fault _   => none
  | .refused _ => none

/-- A host cycle that presents a command. -/
def present (c : Command) : PortCycle := ⟨false, true, c, false⟩

/-- A host cycle with `rst = 1` that also presents a command. -/
def resetting (c : Command) : PortCycle := ⟨true, true, c, false⟩

/-- A host cycle in which only `r` is read. -/
def reading : PortCycle := ⟨false, false, ⟨0#8, 0#32, 0#32⟩, true⟩

/-- A command in flight with `n` edges to go, in a machine otherwise as after reset. -/
def inFlight (c : Command) (n : Nat) (port : List PortCycle) : State :=
  { State.reset with op := c.op, a := c.a, b := c.b, busy := true, remaining := n, port := port }

/-- An idle block whose last command was `c`, with result `v`. -/
def idleWith (c : Command) (v : Word) (port : List PortCycle) : State :=
  { State.reset with op := c.op, a := c.a, b := c.b, r := v, rv := true, port := port }

/-- ADD 1, 1 (R71). -/
def addOneOne : Command := ⟨0x10#8, 0x00010000#32, 0x00010000#32⟩

/-! ## The check of WellFormed: reserved op codes (R46), at the ends of each range -/

theorem test_reserved_00 : Command.wellFormed ⟨0x00#8, 0x00010000#32, 0x00010000#32⟩ = false := by decide
theorem test_reserved_03 : Command.wellFormed ⟨0x03#8, 0x00010000#32, 0x00010000#32⟩ = false := by decide
theorem test_reserved_0F : Command.wellFormed ⟨0x0F#8, 0x00010000#32, 0x00010000#32⟩ = false := by decide
theorem test_reserved_14 : Command.wellFormed ⟨0x14#8, 0x00010000#32, 0x00010000#32⟩ = false := by decide
theorem test_reserved_1F : Command.wellFormed ⟨0x1F#8, 0x00010000#32, 0x00010000#32⟩ = false := by decide
theorem test_reserved_26 : Command.wellFormed ⟨0x26#8, 0x00010000#32, 0x00010000#32⟩ = false := by decide
theorem test_reserved_2F : Command.wellFormed ⟨0x2F#8, 0x00010000#32, 0x00010000#32⟩ = false := by decide
theorem test_reserved_32 : Command.wellFormed ⟨0x32#8, 0x00010000#32, 0x00010000#32⟩ = false := by decide
theorem test_reserved_3F : Command.wellFormed ⟨0x3F#8, 0x00010000#32, 0x00010000#32⟩ = false := by decide
theorem test_reserved_42 : Command.wellFormed ⟨0x42#8, 0x00010000#32, 0x00010000#32⟩ = false := by decide
theorem test_reserved_4F : Command.wellFormed ⟨0x4F#8, 0x00010000#32, 0x00010000#32⟩ = false := by decide
theorem test_reserved_50 : Command.wellFormed ⟨0x50#8, 0x00010000#32, 0x00010000#32⟩ = false := by decide
theorem test_reserved_FF : Command.wellFormed ⟨0xFF#8, 0x00010000#32, 0x00010000#32⟩ = false := by decide

/-! ## Decoding: words of the spec's worked examples (R61 to R107) and of T-D10, one for each constructor -/

theorem test_decode_fromint : decode 0x01FFFFFFFD00000000#72 = .ok (.fromint 0xFFFFFFFD#32) := by decide
theorem test_decode_fromflt : decode 0x02C010000000000000#72 = .ok (.fromflt 0xC0100000#32) := by decide
theorem test_decode_add : decode 0x100002400080038000#72 = .ok (.add 0x00024000#32 0x80038000#32) := by decide
theorem test_decode_sub : decode 0x110001800000008000#72 = .ok (.sub 0x00018000#32 0x00008000#32) := by decide
theorem test_decode_mul : decode 0x128003800000024000#72 = .ok (.mul 0x80038000#32 0x00024000#32) := by decide
theorem test_decode_div : decode 0x130003800000024000#72 = .ok (.div 0x00038000#32 0x00024000#32) := by decide
theorem test_decode_lt : decode 0x208002000080010000#72 = .ok (.lt 0x80020000#32 0x80010000#32) := by decide
theorem test_decode_gt : decode 0x210001800000008000#72 = .ok (.gt 0x00018000#32 0x00008000#32) := by decide
theorem test_decode_le : decode 0x220001000000010000#72 = .ok (.le 0x00010000#32 0x00010000#32) := by decide
theorem test_decode_ge : decode 0x238001000080020000#72 = .ok (.ge 0x80010000#32 0x80020000#32) := by decide
theorem test_decode_eq : decode 0x240003800080038000#72 = .ok (.eq 0x00038000#32 0x80038000#32) := by decide
theorem test_decode_ne : decode 0x250001000000020000#72 = .ok (.ne 0x00010000#32 0x00020000#32) := by decide
theorem test_decode_abs : decode 0x3080024000DEADBEEF#72 = .ok (.abs 0x80024000#32) := by decide
theorem test_decode_sgn : decode 0x3100024000FFFFFFFF#72 = .ok (.sgn 0x00024000#32) := by decide
theorem test_decode_whole : decode 0x408002400000000000#72 = .ok (.whole 0x80024000#32) := by decide
theorem test_decode_dig10 : decode 0x410000199900000000#72 = .ok (.dig10 0x00001999#32) := by decide

theorem test_decode_cleared_bus : decode 0x000000000000000000#72 = .error (.reservedOp 0x00#8) := by decide
theorem test_decode_all_ones : decode 0xFFFFFFFFFFFFFFFFFF#72 = .error (.reservedOp 0xFF#8) := by decide
theorem test_decode_after_div : decode 0x140001000000010000#72 = .error (.reservedOp 0x14#8) := by decide
theorem test_encode_puts_zero_in_b : encode (.abs 0x80024000#32) = 0x308002400000000000#72 := by decide
theorem test_encode_add : encode (.add 0x00024000#32 0x80038000#32) = 0x100002400080038000#72 := by decide
theorem test_table_word_add :
    decodeTableWord 72 0x100002400080038000 = some (.add 0x00024000#32 0x80038000#32) := by decide
theorem test_table_word_reserved : decodeTableWord 72 0x260000000000000000 = none := by decide

/-! ## Results (T-D1 to T-D8), two for each operation at most -/

theorem test_fromint_minus_2_31 : resultOf ⟨0x01#8, 0x80000000#32, 0x00000000#32⟩ = some 0x80000000#32 := by decide
theorem test_fromint_wraps : resultOf ⟨0x01#8, 0x000186A0#32, 0x00000000#32⟩ = some 0x06A00000#32 := by decide
theorem test_fromflt_tenth : resultOf ⟨0x02#8, 0x3DCCCCCD#32, 0x00000000#32⟩ = some 0x00001999#32 := by decide
theorem test_fromflt_largest_defined : resultOf ⟨0x02#8, 0x4EFFFFFF#32, 0x00000000#32⟩ = some 0x7F800000#32 := by decide
theorem test_add_tie_left_sign : resultOf ⟨0x10#8, 0x80030000#32, 0x00030000#32⟩ = some 0x80000000#32 := by decide
theorem test_add_wraps_keeps_sign : resultOf ⟨0x10#8, 0xFFFFFFFF#32, 0x80000001#32⟩ = some 0x80000000#32 := by decide
theorem test_sub_tie_left_sign : resultOf ⟨0x11#8, 0x80030000#32, 0x80030000#32⟩ = some 0x80000000#32 := by decide
theorem test_sub_negates : resultOf ⟨0x11#8, 0x00000000#32, 0x00010000#32⟩ = some 0x80010000#32 := by decide
theorem test_mul_truncates_per_bit : resultOf ⟨0x12#8, 0x0000FFFF#32, 0x0000FFFF#32⟩ = some 0x0000FFEF#32 := by decide
theorem test_mul_negative_zero : resultOf ⟨0x12#8, 0x80010000#32, 0x00000000#32⟩ = some 0x80000000#32 := by decide
theorem test_div_truncates : resultOf ⟨0x13#8, 0x00010000#32, 0x0001999A#32⟩ = some 0x00009FFF#32 := by decide
theorem test_div_wraps : resultOf ⟨0x13#8, 0x7FFFFFFF#32, 0x00000001#32⟩ = some 0x7FFF0000#32 := by decide
theorem test_lt_both_negative : resultOf ⟨0x20#8, 0x80020000#32, 0x80010000#32⟩ = some 0x00000001#32 := by decide
theorem test_lt_omitted_case : resultOf ⟨0x20#8, 0x00010000#32, 0x80010000#32⟩ = some 0x00000000#32 := by decide
theorem test_gt_both_negative : resultOf ⟨0x21#8, 0x80000001#32, 0x80000002#32⟩ = some 0x00000001#32 := by decide
theorem test_gt_zeros : resultOf ⟨0x21#8, 0x00000000#32, 0x80000000#32⟩ = some 0x00000001#32 := by decide
theorem test_le_equal_magnitudes : resultOf ⟨0x22#8, 0x00010000#32, 0x80010000#32⟩ = some 0x00000000#32 := by decide
theorem test_le_zeros : resultOf ⟨0x22#8, 0x80000000#32, 0x00000000#32⟩ = some 0x00000001#32 := by decide
theorem test_ge_equal_words : resultOf ⟨0x23#8, 0x80020000#32, 0x80020000#32⟩ = some 0x00000001#32 := by decide
theorem test_ge_zeros : resultOf ⟨0x23#8, 0x80000000#32, 0x00000000#32⟩ = some 0x00000000#32 := by decide
theorem test_eq_ignores_sign : resultOf ⟨0x24#8, 0x7FFFFFFF#32, 0xFFFFFFFF#32⟩ = some 0x00000001#32 := by decide
theorem test_eq_differs : resultOf ⟨0x24#8, 0x00010000#32, 0x00020000#32⟩ = some 0x00000000#32 := by decide
theorem test_ne_ignores_sign : resultOf ⟨0x25#8, 0x00000000#32, 0x80000000#32⟩ = some 0x00000000#32 := by decide
theorem test_ne_differs : resultOf ⟨0x25#8, 0x00010000#32, 0x00020000#32⟩ = some 0x00000001#32 := by decide
theorem test_abs_negative_zero : resultOf ⟨0x30#8, 0x80000000#32, 0xDEADBEEF#32⟩ = some 0x00000000#32 := by decide
theorem test_abs_all_ones : resultOf ⟨0x30#8, 0xFFFFFFFF#32, 0x00000000#32⟩ = some 0x7FFFFFFF#32 := by decide
theorem test_sgn_negative_zero : resultOf ⟨0x31#8, 0x80000000#32, 0x00000000#32⟩ = some 0x00000001#32 := by decide
theorem test_sgn_largest : resultOf ⟨0x31#8, 0x7FFFFFFF#32, 0xFFFFFFFF#32⟩ = some 0x00000000#32 := by decide
theorem test_whole_all_ones : resultOf ⟨0x40#8, 0xFFFFFFFF#32, 0x00000000#32⟩ = some 0x00007FFF#32 := by decide
theorem test_whole_cuts_fraction : resultOf ⟨0x40#8, 0x0000FFFF#32, 0x00000000#32⟩ = some 0x00000000#32 := by decide
theorem test_dig10_high_half_ignored : resultOf ⟨0x41#8, 0xABCD8000#32, 0x00000000#32⟩ = some 0x00050000#32 := by decide
theorem test_dig10_all_ones : resultOf ⟨0x41#8, 0x0000FFFF#32, 0x00000000#32⟩ = some 0x0009FFF6#32 := by decide

theorem test_fromflt_infinity_stops : resultOf ⟨0x02#8, 0x7F800000#32, 0#32⟩ = none := by decide
theorem test_fromflt_2_31_stops : resultOf ⟨0x02#8, 0x4F000000#32, 0#32⟩ = none := by decide
theorem test_div_by_negative_zero_stops : resultOf ⟨0x13#8, 0x00010000#32, 0x80000000#32⟩ = none := by decide
theorem test_restoring_divider : restoringQuotient 0x380000000 0x24000 = 0x18E38 := by decide

/-! ## The step and the interface (T-D11, R140, R141, R144) -/

/-- The step runs the placed word as the first command after reset. -/
theorem test_step_runs_placed_word :
    (after (step (State.reset.withFetchWord 72 0x100001800000008000))).map
      (fun t => (t.r, t.rv, t.busy, t.rspValid)) = some (0x00020000#32, true, false, true) := by decide
theorem test_placed_reserved_word_refused :
    step (State.reset.withFetchWord 72 0x260000000000000000) = .refused (.reservedOp 0x26#8) := rfl
theorem test_placed_division_by_zero_faults :
    step (State.reset.withFetchWord 72 0x130001000000000000) = .fault .divByZeroMagnitude := rfl
theorem test_acceptance :
    (after (step { State.reset with port := [present addOneOne] })).map
      (fun t => (t.latched, t.busy, t.rv, t.st)) = some (addOneOne, true, false, 0b01#2) := by decide
theorem test_command_while_busy_has_no_effect :
    (after (step (inFlight addOneOne 2 [present ⟨0x12#8, 0#32, 0#32⟩]))).map
      (fun t => (t.latched, t.busy, t.remaining)) = some (addOneOne, true, 1) := by decide
theorem test_reset_abandons_due_command :
    (after (step (inFlight addOneOne 1 [resetting addOneOne]))).map
      (fun t => (t.busy, t.rv, t.rspValid, t.st)) = some (false, false, false, 0b00#2) := by decide
theorem test_reset_recovers_from_undefined_command :
    (after (step (inFlight ⟨0x13#8, 0#32, 0#32⟩ 1 [resetting addOneOne]))).map State.busy = some false := by decide
theorem test_undefined_command_faults_before_it_is_due :
    step (inFlight ⟨0x02#8, 0x7FC00000#32, 0#32⟩ 9 []) = .fault .fromfltOutOfDomain := rfl
/-- R144: a read before the first response is the host's fault; R36: it has no effect on the block. -/
theorem test_read_after_reset_is_counted :
    (after (step { State.reset with port := [reading] })).map (fun t => (t.misreads, t.busy, t.rv)) =
      some (1, false, false) := by decide
theorem test_read_of_result :
    (after (step (idleWith addOneOne 0x00020000#32 [reading]))).map (fun t => (t.readR, t.rv, t.misreads)) =
      some (0x00020000#32, true, 0) := by decide
theorem test_read_of_result_under_reset :
    (after (step (idleWith addOneOne 0x00020000#32 [{ reading with rst := true }]))).map (fun t => (t.busy, t.rv)) =
      some (false, false) := by decide
theorem test_pulse_is_over_after_one_cycle :
    (after (step ((inFlight addOneOne 1 []).writeR 0x00020000#32))).map (fun t => (t.rv, t.rspValid)) =
      some (true, false) := by decide
theorem test_outputs_under_reset :
    (idleWith addOneOne 1#32 []).outputs true = ⟨false, false, 1#32, 0b00#2⟩ := by decide
theorem test_outputs_idle_with_result :
    (idleWith addOneOne 1#32 []).outputs false = ⟨true, false, 1#32, 0b10#2⟩ := by decide

/-! ## Host software (T-D9, P4) -/

/-- The string of a rendering, as character codes. -/
def rendered (x : Word) (digits : Nat) : List Nat :=
  match toStringRun x digits State.reset with
  | .next (l, _) => l.map BitVec.toNat
  | .fault _     => []
  | .refused _   => []

/-- "-2.25" (T-S2). -/
theorem test_render_source_example :
    rendered 0x80024000#32 Config.defaultDigits = [0x2D, 0x32, 0x2E, 0x32, 0x35] := by decide
/-- The same on a busy block: the host waits for ADD 1, 1 first (log 14). -/
theorem test_render_waits_for_command_in_flight :
    (match toStringRun 0x80024000#32 Config.defaultDigits (inFlight addOneOne 3 []) with
      | .next (l, t) => some (l.map BitVec.toNat, t.busy)
      | .fault _ => none
      | .refused _ => none) = some ([0x2D, 0x32, 0x2E, 0x32, 0x35], false) := by decide
/-- "3." (R112 b). -/
theorem test_render_no_digits : rendered 0x00038000#32 0 = [0x33, 0x2E] := by decide
/-- "-0.0" (R112 c). -/
theorem test_render_negative_zero : rendered 0x80000000#32 4 = [0x2D, 0x30, 0x2E, 0x30] := by decide

/-- P4's script, names and labels numbered: z = EQ b, 0; if z goto skip; q = DIV a, b; skip: -/
def guardedDivision : List ScriptLine :=
  [.assign 2 0x24#8 (.var 1) (.lit 0#32), .ifGoto 2 9, .assign 3 0x13#8 (.var 0) (.var 1), .label 9]

/-- The host in P4 with `a = 7` and a value of `b`, at a line, `z` having a value. -/
def guardHost (b z : Word) (line : Nat) : HostState :=
  ⟨State.reset, [(2, z), (1, b), (0, 0x00070000#32)], line⟩

theorem test_script_guard_command :
    ((guardHost 0x80000000#32 0#32 0).step guardedDivision).toOption.map (fun h => (h.line, h.vars.lookup 2)) =
      some (1, some 1#32) := by decide
theorem test_script_guard_jumps :
    ((guardHost 0x80000000#32 1#32 1).step guardedDivision).toOption.map HostState.line = some 3 := by decide

/-! ## Witnesses: for each statement with hypotheses, a state and operands that meet them -/

theorem witness_reservedOpsRefused : ∃ s : State, s.busy = true ∧ noReset s.cycle ∧ reservedNum s.op.toNat :=
  ⟨inFlight ⟨0x26#8, 0#32, 0#32⟩ 3 [], rfl, rfl, by unfold reservedNum; decide⟩

theorem witness_oneOperandIgnoresB : ∃ i : Instr, readsB i = false := ⟨.dig10 0xFFFFFFFF#32, rfl⟩

theorem witness_stepRunsDueCommand : ∃ (s : State) (i : Instr), s.busy = true ∧ s.remaining ≤ 1 ∧ noReset s.cycle ∧
    decodeCommand s.latched = .ok i :=
  ⟨inFlight addOneOne 1 [], .add 0x00010000#32 0x00010000#32, rfl, Nat.le_refl 1, rfl, rfl⟩

theorem witness_stepRunsPlacedWord : ∃ (w : Nat) (i : Instr), w < 2 ^ 72 ∧ decodeTableWord 72 w = some i :=
  ⟨0x41FFFFFFFFFFFFFFFF, .dig10 0xFFFFFFFF#32, by decide, by decide⟩

theorem witness_acceptanceSamplesCommand : ∃ s : State, s.busy = false ∧ noReset s.cycle ∧ s.cycle.cmdValid = true :=
  ⟨{ State.reset with port := [present addOneOne] }, rfl, rfl, rfl⟩

theorem witness_commandInFlightWaits : ∃ s : State, s.busy = true ∧ 1 < s.remaining ∧ noReset s.cycle ∧
    mayIssue s.latched = true :=
  ⟨inFlight addOneOne 2 [], rfl, Nat.lt_succ_self 1, rfl, by decide⟩

theorem witness_busyBlockIgnoresCommandPins : ∃ (s : State) (c d : PortCycle), s.busy = true ∧ c.rst = d.rst ∧
    c.samplesR = d.samplesR ∧ c ≠ d :=
  ⟨inFlight addOneOne 2 [], present addOneOne, .quiet, rfl, rfl, rfl, by decide⟩

theorem witness_resetEdgeForgets : ∃ s s' : State, s.cycle.rst = true ∧ s.cycle.samplesR = false ∧
    s'.draws = s.draws ∧ s'.misreads = s.misreads ∧ s'.port = s.port ∧ s' ≠ s :=
  ⟨inFlight addOneOne 1 [resetting addOneOne], { State.reset with port := [resetting addOneOne] }, rfl, rfl, rfl, rfl,
    rfl, by decide⟩

theorem witness_readOfResult_before_any_response : ∃ (s : State) (c : PortCycle), c.samplesR = true ∧ s.rv = false :=
  ⟨State.reset, reading, rfl, rfl⟩

theorem witness_readOfResult_under_reset : ∃ (s : State) (c : PortCycle), c.samplesR = true ∧ s.rv = true ∧
    c.rst = true :=
  ⟨idleWith addOneOne 0x00020000#32 [], { reading with rst := true }, rfl, rfl, rfl⟩

theorem witness_readOfResult_valid : ∃ (s : State) (c : PortCycle), c.samplesR = true ∧ s.rv = true ∧ c.rst = false :=
  ⟨idleWith addOneOne 0x00020000#32 [], reading, rfl, rfl, rfl⟩

theorem witness_idleBlockKeepsResult : ∃ (n : Nat) (s : State), 0 < n ∧ s.busy = false ∧
    ∀ c ∈ s.port.take n, noReset c ∧ c.cmdValid = false :=
  ⟨1, idleWith addOneOne 0x00020000#32 [.quiet, present addOneOne], Nat.one_pos, rfl, by
    intro c hc; simp only [idleWith, List.take, List.mem_singleton] at hc; subst hc; exact ⟨rfl, rfl⟩⟩

theorem witness_responsePulseIsOneCycle : ∃ s t u : State, step s = .next t ∧ t.rspValid = true ∧ step t = .next u :=
  ⟨inFlight addOneOne 1 [], (inFlight addOneOne 1 []).writeR 0x00020000#32,
    ((inFlight addOneOne 1 []).writeR 0x00020000#32).idleEdge, rfl, rfl, rfl⟩

theorem witness_whatChangesTheFlags_acceptance : ∃ s t : State, step s = .next t ∧ s.busy = false ∧ t.busy = true :=
  ⟨{ State.reset with port := [present addOneOne] }, State.reset.acceptEdge addOneOne, rfl, rfl, rfl⟩

theorem witness_whatChangesTheFlags_response : ∃ s t : State, step s = .next t ∧ s.rv = false ∧ t.rv = true :=
  ⟨inFlight addOneOne 1 [], (inFlight addOneOne 1 []).writeR 0x00020000#32, rfl, rfl, rfl⟩

theorem witness_whatChangesTheFlags_idle : ∃ s t : State, step s = .next t ∧ s.rv = true ∧ t.rv = true ∧
    t.rspValid = false ∧ s.busy = false :=
  ⟨idleWith addOneOne 0x00020000#32 [], idleWith addOneOne 0x00020000#32 [], rfl, rfl, rfl, rfl, rfl⟩

theorem consistent_idle : (idleWith addOneOne 0x00020000#32 []).Inv := by
  have h : resultOf addOneOne = some 0x00020000#32 := by decide
  simpa [State.Inv, idleWith, State.reset, State.latched] using h

theorem witness_stepKeepsConsistency : ∃ s t : State, s.Inv ∧ step s = .next t ∧ t.rspValid = true :=
  ⟨inFlight addOneOne 1 [], (inFlight addOneOne 1 []).writeR 0x00020000#32,
    by simp [State.Inv, inFlight, State.reset], rfl, rfl⟩

theorem witness_statusNeverBoth : ∃ s : State, s.Inv ∧ s.rv = true := ⟨_, consistent_idle, rfl⟩

theorem witness_obedientHostNeverStopped_in_flight : ∃ s : State, s.FlightDefined ∧
    s.HostIssuesDefined ∧ s.busy = true :=
  ⟨inFlight addOneOne 1 [], fun _ => by decide, by unfold State.HostIssuesDefined; decide, rfl⟩

theorem witness_obedientHostNeverStopped_read : ∃ s : State, s.FlightDefined ∧ s.HostIssuesDefined ∧
    s.HostReadsValid ∧ s.cycle.samplesR = true ∧ s.cycle.cmdValid = true :=
  ⟨idleWith addOneOne 0x00020000#32 [{ present addOneOne with samplesR := true }], by unfold State.FlightDefined; decide,
    by unfold State.HostIssuesDefined; decide, by unfold State.HostReadsValid; decide, rfl, rfl⟩

theorem witness_acceptedCommandGetsItsResponse : ∃ (s : State) (c : PortCycle) (rest : List PortCycle), s.busy = false ∧
    s.port = c :: rest ∧ noReset c ∧ c.cmdValid = true ∧ mayIssue c.cmd = true ∧
    ∀ d ∈ rest.take (Config.latency s.draws c.cmd.op c.cmd.a c.cmd.b), noReset d :=
  ⟨{ State.reset with port := [present addOneOne, present addOneOne] }, present addOneOne, [present addOneOne], rfl, rfl,
    rfl, rfl, by decide, by
      intro d hd; have h := List.mem_of_mem_take hd; simp only [List.mem_singleton] at h; subst h; rfl⟩

theorem witness_transactionIsTheRunOfEdges : ∃ (s : State) (c : PortCycle) (rest : List PortCycle), s.busy = false ∧
    s.port = c :: rest ∧ noReset c ∧ c.cmdValid = true ∧ mayIssue c.cmd = true ∧
    ∀ d ∈ rest.take (Config.latency s.draws c.cmd.op c.cmd.a c.cmd.b), noReset d :=
  witness_acceptedCommandGetsItsResponse

theorem witness_resultDependsOnCommandAlone : ∃ s s' : State, s.busy = true ∧ s'.busy = true ∧ s.remaining ≤ 1 ∧
    s'.remaining ≤ 1 ∧ noReset s.cycle ∧ noReset s'.cycle ∧ s.latched = s'.latched ∧ s ≠ s' :=
  ⟨inFlight addOneOne 1 [], { inFlight addOneOne 1 [present addOneOne] with r := 5#32, draws := 7 }, rfl, rfl,
    Nat.le_refl 1, Nat.le_refl 1, rfl, rfl, rfl, by decide⟩

theorem witness_fromintExactInRange : ∃ a : Word, a.toInt.natAbs ≤ 32767 ∧ a.toInt < 0 := ⟨0xFFFF8001#32, by decide⟩

theorem witness_fromflt_wraps : expNum 0x4EFFFFFF#32 = 157 := by decide
theorem witness_fromflt_subnormal : expNum 0x80000001#32 = 0 := by decide
theorem witness_fromfltByShift_left : 134 ≤ max (expNum 0x43000000#32) 1 := by decide
theorem witness_fromfltByShift_right : ¬ 134 ≤ max (expNum 0x42800000#32) 1 ∧ 134 - max (expNum 0x42800000#32) 1 < 24 := by
  decide
theorem witness_fromfltByShift_zero : ¬ 134 - max (expNum 0x37000000#32) 1 < 24 := by decide
theorem witness_fromfltStops : 158 ≤ expNum 0x4F000000#32 := by decide

theorem witness_addSubExactInRange_add : ∃ a b r : Word, resultOf (Instr.add a b).command = some r ∧
    magNum a + magNum b < 2 ^ 31 := ⟨0x7FFFFFFE#32, 0x00000001#32, 0x7FFFFFFF#32, by decide, by decide⟩
theorem witness_addSubExactInRange_sub : ∃ a b r : Word, resultOf (Instr.sub a b).command = some r ∧
    signNum a = signNum b := ⟨0xFFFFFFFF#32, 0xFFFFFFFE#32, 0x80000001#32, by decide, by decide⟩

theorem witness_mulWithinFifteen : ∃ a b : Word, magNum a * magNum b / 2 ^ 16 < 2 ^ 31 ∧
    resultNum (.mul a b) + 15 = magNum a * magNum b / 2 ^ 16 := ⟨0x0000FFFF#32, 0x0000FFFF#32, by decide⟩

theorem witness_divResult : ∃ b : Word, magNum b ≠ 0 := ⟨0x80000001#32, by decide⟩
theorem witness_signPropagates : ∃ b : Word, magNum b ≠ 0 := witness_divResult
theorem witness_divStops : ∃ b : Word, magNum b = 0 := ⟨0x80000000#32, by decide⟩

theorem witness_restoringDividerDivides : ∃ n d : Nat, n < 2 ^ 47 ∧ d ≠ 0 := ⟨2 ^ 47 - 1, 1, by decide, by decide⟩

theorem witness_ltIsStrictTotalOrder : ∃ a b c : Word, resultNum (.lt a b) = 1 ∧ resultNum (.lt b c) = 1 ∧ a ≠ b :=
  ⟨0x80000001#32, 0x80000000#32, 0x00000000#32, by decide⟩

theorem witness_fractionEndsInSixteenSteps : ∃ n : Nat, 16 ≤ n := ⟨16, Nat.le_refl 16⟩

theorem witness_rendering_zero_field : ∃ (x : Word) (s : State), s.busy = false ∧ x.toNat % 2 ^ 16 = 0 :=
  ⟨0x80000000#32, State.reset, rfl, by decide⟩
theorem witness_rendering_nonzero_field : ∃ (x : Word) (s : State), s.busy = false ∧ x.toNat % 2 ^ 16 ≠ 0 :=
  ⟨0x00000001#32, State.reset, rfl, by decide⟩

theorem witness_scriptCommandLine : ∃ (script : List ScriptLine) (h : HostState) (name : Nat) (op : OpCode)
    (x y : ScriptOperand) (a b : Word), script[h.line]? = some (.assign name op x y) ∧ h.operand x = .ok a ∧
    h.operand y = .ok b ∧ h.block.busy = false ∧ mayIssue ⟨op, a, b⟩ = true :=
  ⟨[.assign 0 0x10#8 (.var 0) (.lit 2#32)], ⟨State.reset, [(0, 1#32)], 0⟩, 0, 0x10#8, .var 0, .lit 2#32, 1#32, 2#32,
    rfl, rfl, rfl, rfl, by decide⟩

theorem witness_scriptControlFlow_compound : ∃ (script script' : List ScriptLine) (h : HostState) (name : Nat)
    (op : OpCode) (y : ScriptOperand), script[h.line]? = some (.compound name op y) ∧
    script'[h.line]? = some (.assign name op (.var name) y) :=
  ⟨[.compound 0 0x10#8 (.lit 1#32)], [.assign 0 0x10#8 (.var 0) (.lit 1#32)], ⟨State.reset, [(0, 1#32)], 0⟩, 0, 0x10#8,
    .lit 1#32, rfl, rfl⟩

theorem witness_scriptControlFlow_if : ∃ (script before after : List ScriptLine) (h : HostState) (name label : Nat)
    (v : Word), script = before ++ .label label :: after ∧ ScriptLine.label label ∉ before ∧
    script[h.line]? = some (.ifGoto name label) ∧ h.vars.lookup name = some v :=
  ⟨guardedDivision, guardedDivision.take 3, [], guardHost 0#32 1#32 1, 2, 9, 1#32, rfl, by decide, rfl, rfl⟩

theorem witness_scriptControlFlow_goto : ∃ (script before after : List ScriptLine) (h : HostState) (label : Nat),
    script = before ++ .label label :: after ∧ ScriptLine.label label ∉ before ∧
    script[h.line]? = some (.goto label) :=
  ⟨[.label 4, .goto 4], [], [.goto 4], ⟨State.reset, [], 1⟩, 4, rfl, by decide, rfl⟩

end Sys2Proof.Tests
end

section
/-! SUPPORT. Proofs of the statements about the state (spec 10_state.md). A step with a command in flight is an
in-flight edge, and what that edge does is read off the latched command. -/

namespace Sys2Proof.Proofs

open Sys2Proof.Machine Sys2Proof.Slice0

/-- A step without reset of a block with a command in flight is its in-flight edge. -/
theorem step_of_inFlight {s : State} (hb : s.busy = true) (hr : noReset s.cycle) :
    step s = inFlightEdge s.popCycle := by
  rw [step_of_noReset hr, if_pos hb]

/-- A step with a defined command in flight and due writes its answer to `R` (R32). -/
theorem step_due_of_answer {s : State} {i : Instr} {v : Word} (hb : s.busy = true) (hdue : s.remaining ≤ 1)
    (hr : noReset s.cycle) (hd : decodeCommand s.latched = .ok i) (ha : answer i = .ok v) :
    step s = .next (s.popCycle.writeR v) := by
  rw [step_of_inFlight hb hr, inFlightEdge_of_answer (s := s.popCycle) hd ha, State.popCycle_remaining, if_pos hdue]

/-- A step with an undefined command in flight faults (R65, R76). -/
theorem step_inFlight_of_fault {s : State} {i : Instr} {f : Fault} (hb : s.busy = true) (hr : noReset s.cycle)
    (hd : decodeCommand s.latched = .ok i) (ha : answer i = .error f) : step s = .fault f := by
  rw [step_of_inFlight hb hr, inFlightEdge_of_fault (s := s.popCycle) hd ha]

/-- A step with a reserved command in flight is refused (R46). -/
theorem step_inFlight_of_reserved {s : State} {op : OpCode} (hb : s.busy = true) (hr : noReset s.cycle)
    (hd : decodeCommand s.latched = .error (.reservedOp op)) : step s = .refused (.reservedOp op) := by
  rw [step_of_inFlight hb hr, inFlightEdge_of_reserved (s := s.popCycle) hd]

/-- Settles O24: the latched command decides which of the three things a due step does, and with what word, fault or
refusal, so two states with the same latches do the same. -/
theorem resultDependsOnCommandAlone : Obligations.ResultDependsOnCommandAlone := by
  intro s s' hb hb' hdue hdue' hr hr' hl
  rcases hd : decodeCommand s.latched with ⟨⟨op⟩⟩ | i
  · have hd' := hl ▸ hd
    exact .inr (.inr ⟨_, step_inFlight_of_reserved hb hr hd, step_inFlight_of_reserved hb' hr' hd'⟩)
  · have hd' := hl ▸ hd
    rcases ha : answer i with f | v
    · exact .inr (.inl ⟨f, step_inFlight_of_fault hb hr hd ha, step_inFlight_of_fault hb' hr' hd' ha⟩)
    · have hresult : resultOf s.latched = some v := by rw [resultOf_eq hd, ha]; rfl
      exact .inl ⟨_, _, step_due_of_answer hb hdue hr hd ha, step_due_of_answer hb' hdue' hr' hd' ha, rfl, hresult⟩

end Sys2Proof.Proofs
end

section
/-! SUPPORT. Proofs of the statements about the encoding (spec 30_encoding.md). What the decoder reads of a command is
said once (`fieldsRead`); both directions of R47 are then facts about fields, carried over to words. -/

namespace Sys2Proof.Proofs

open Sys2Proof.Slice0

/-- Every operation is well formed, with an op code of R42 that its command carries. -/
theorem instr_listed : ∀ i : Instr, Laws.Listed.Statement i
  | .fromint a => Laws.Listed.fromint a
  | .fromflt a => Laws.Listed.fromflt a
  | .add a b   => Laws.Listed.add a b
  | .sub a b   => Laws.Listed.sub a b
  | .mul a b   => Laws.Listed.mul a b
  | .div a b   => Laws.Listed.div a b
  | .lt a b    => Laws.Listed.lt a b
  | .gt a b    => Laws.Listed.gt a b
  | .le a b    => Laws.Listed.le a b
  | .ge a b    => Laws.Listed.ge a b
  | .eq a b    => Laws.Listed.eq a b
  | .ne a b    => Laws.Listed.ne a b
  | .abs a     => Laws.Listed.abs a
  | .sgn a     => Laws.Listed.sgn a
  | .whole a   => Laws.Listed.whole a
  | .dig10 a   => Laws.Listed.dig10 a

/-- An op code of R42 is listed. -/
theorem opCode_listed (i : Instr) : OpCode.listed i.opCode = true :=
  have ⟨_, hlisted, _⟩ := instr_listed i
  hlisted

/-- The command of an operation carries its op code (R42). -/
@[simp] theorem command_op (i : Instr) : i.command.op = i.opCode :=
  have ⟨_, _, hop⟩ := instr_listed i
  hop

/-- The command as the operation reads it: its `b` field counts as zero for a one-operand operation (R45). -/
def fieldsRead (i : Instr) (c : Command) : Command := ⟨c.op, c.a, if readsB i then c.b else 0#32⟩

/-- An operation is written as the fields it reads. -/
theorem fieldsRead_command (i : Instr) : fieldsRead i i.command = i.command := by
  cases i <;> rfl

/-- A one-operand operation is written with zero in the `b` field (R45). -/
theorem command_b_of_not_readsB {i : Instr} (h : readsB i = false) : i.command.b = 0#32 := by
  rw [← fieldsRead_command]
  simp [fieldsRead, h]

/-- A command with the op code and operands of an operation decodes to it, whatever stands in a `b` field that it does
not read (R45, R47). -/
theorem decodeCommand_of_fields (i : Instr) (b : Word) :
    decodeCommand ⟨i.opCode, i.command.a, if readsB i then i.command.b else b⟩ = .ok i := by
  cases i <;> rfl

/-- What a listed op code decodes to is written as the fields it reads. -/
theorem command_of_decodeCommand_opCode (j : Instr) {i : Instr} {a b : Word}
    (h : decodeCommand ⟨j.opCode, a, b⟩ = .ok i) : i.command = fieldsRead i ⟨j.opCode, a, b⟩ := by
  cases j <;> cases h <;> rfl

/-- R47: a command decodes to an operation exactly when that operation is written as the fields it reads. -/
theorem decodeCommand_eq_ok_iff (c : Command) (i : Instr) :
    decodeCommand c = .ok i ↔ i.command = fieldsRead i c := by
  rcases c with ⟨op, a, b⟩
  constructor
  · intro h
    obtain ⟨j, -, hop, -⟩ | ⟨herr, -⟩ := decodeCommand_cases ⟨op, a, b⟩
    · obtain rfl : j.opCode = op := hop
      exact command_of_decodeCommand_opCode j h
    · rw [h] at herr
      cases herr
  · intro h
    have hop : i.opCode = op := by rw [← command_op, h, fieldsRead]
    have ha : i.command.a = a := by rw [h, fieldsRead]
    have hb : (if readsB i then i.command.b else b) = b := by
      rw [h, fieldsRead]
      split <;> rfl
    simpa only [hop, ha, hb] using decodeCommand_of_fields i b

/-- R46: a command is rejected by its op code, exactly when no operation has it. -/
theorem decodeCommand_eq_reserved_iff (c : Command) (op : OpCode) :
    decodeCommand c = .error (.reservedOp op) ↔ op = c.op ∧ ∀ i : Instr, i.opCode ≠ op := by
  obtain ⟨i, hok, hop, -⟩ | ⟨herr, hreserved⟩ := decodeCommand_cases c
  · constructor
    · intro h
      rw [hok] at h
      cases h
    · rintro ⟨rfl, hnone⟩
      exact absurd hop (hnone i)
  · have hnone (i : Instr) : i.opCode ≠ c.op := by
      intro h
      rw [← h, opCode_listed] at hreserved
      cases hreserved
    constructor
    · intro h
      rw [herr] at h
      cases h
      exact ⟨rfl, hnone⟩
    · rintro ⟨rfl, -⟩
      exact herr

/-- Zeroing the low 32 bits of a command word zeroes its `b` field and keeps the others (R40). -/
theorem toBits_zero_b (c : Command) :
    Command.toBits ⟨c.op, c.a, 0#32⟩ = c.toBits &&& 0xFFFFFFFFFF00000000#72 :=
  calc c.op ++ c.a ++ 0#32
      = (c.op ++ c.a &&& BitVec.allOnes 40) ++ (c.b &&& 0#32) := by rw [BitVec.and_allOnes, BitVec.and_zero]
    _ = c.toBits &&& 0xFFFFFFFFFF00000000#72 := BitVec.and_append.symm

/-- The fields an operation reads of a word, as a word. -/
theorem fieldsRead_ofBits_toBits (i : Instr) (w : BitVec 72) :
    (fieldsRead i (Command.ofBits w)).toBits = if readsB i then w else w &&& 0xFFFFFFFFFF00000000#72 := by
  unfold fieldsRead
  split
  · exact Command.toBits_ofBits w
  · rw [toBits_zero_b, Command.toBits_ofBits]

/-- Settles O3: R47 holds of the three fields, and a word is its fields. -/
theorem decodingProcedure : Obligations.DecodingProcedure := by
  intro w
  constructor
  · intro i
    rw [← fieldsRead_ofBits_toBits, encode, Command.toBits_inj]
    exact decodeCommand_eq_ok_iff (Command.ofBits w) i
  · exact decodeCommand_eq_reserved_iff (Command.ofBits w)

/-- Settles O5: the fields a one-operand operation reads are the same for every `b`, and its own word has zero there. -/
theorem oneOperandIgnoresB : Obligations.OneOperandIgnoresB := by
  constructor
  · intro i hi b
    rw [decode_word]
    simpa only [hi, Bool.false_eq_true, if_false] using decodeCommand_of_fields i b
  · intro i hi
    calc (encode i).extractLsb' 0 32
        = (Command.ofBits i.command.toBits).b := rfl
      _ = i.command.b := by rw [Command.ofBits_toBits]
      _ = 0#32 := command_b_of_not_readsB hi

end Sys2Proof.Proofs
end

section
/-! SUPPORT. Proofs of the statements about construction (spec 40_construct.md). What `exec` does at a state is read off
the operation's answer, so a domain is a fact about `answer` alone. -/

namespace Sys2Proof.Proofs

open Sys2Proof.Machine Sys2Proof.Slice0

/-- An operation with an answer completes with it at every state (R7, R14). -/
theorem completes_of_answer {i : Instr} {v : Word} (ha : answer i = .ok v) (s : State) : Completes i s v.toNat := by
  refine ⟨s.writeR v, ?_, rfl, rfl⟩
  rw [exec_eq_give, ha]
  rfl

/-- An operation faults at a state exactly when its answer is that fault (R23). -/
theorem exec_eq_fault_iff (i : Instr) (s : State) (f : Fault) : exec i s = .fault f ↔ answer i = .error f := by
  rw [exec_eq_give]
  cases answer i <;> simp [give, respond]

/-- FROMFLT's answer is the fault exactly on the exponent fields of R65. -/
theorem answer_fromflt_eq_error_iff (a : Word) :
    answer (.fromflt a) = .error .fromfltOutOfDomain ↔ 158 ≤ expNum a := by
  have hdomain : fromFltDefined a = true ↔ expNum a ≤ 157 := fromFltDefined_iff a
  by_cases h : fromFltDefined a = true
  · have hin := hdomain.mp h
    simp only [answer, if_pos h, reduceCtorEq, false_iff]
    omega
  · have hout := mt hdomain.mpr h
    simp only [answer, if_neg h, true_iff]
    omega

/-- R65: FROMFLT faults, at every state, exactly on an exponent field of at least 158. -/
theorem exec_fromflt_eq_fault_iff (a : Word) (s : State) :
    exec (.fromflt a) s = .fault .fromfltOutOfDomain ↔ 158 ≤ expNum a :=
  (exec_eq_fault_iff _ s _).trans (answer_fromflt_eq_error_iff a)

/-- The largest binary32 below 2^31 is `2^31 - 128`, whose product with 2^16 wraps to `0x7F800000` (R62, R65). -/
theorem answer_fromflt_largest : answer (.fromflt 0x4EFFFFFF#32) = .ok 0x7F800000#32 := rfl

/-- Settles O29: the domain of FROMFLT is read off its answer, and the two boundary words lie on either side of it. -/
theorem fromfltStopsOutOfDomain : Obligations.FromfltStopsOutOfDomain := by
  refine ⟨exec_fromflt_eq_fault_iff, fun s => ⟨completes_of_answer answer_fromflt_largest s, ?_⟩⟩
  exact (exec_fromflt_eq_fault_iff _ s).mpr (by decide)

end Sys2Proof.Proofs
end

section
/-! SUPPORT. Proofs of the statements about arithmetic (spec 41_arith.md). The fields of an operand and the packing of a
value are turned into numbers once; each result statement is then the number of its operation's value. -/

namespace Sys2Proof.Proofs

open Sys2Proof.Machine Sys2Proof.Slice0

/-- The word `{op, a, b}` of an operation that reads both operands decodes to it (R40, R47). -/
theorem encodedAs_of_readsB {i : Instr} (h : readsB i = true) : EncodedAs i.opCode i.command.a i.command.b i := by
  rw [EncodedAs, decode_word]
  simpa only [h, if_true] using decodeCommand_of_fields i 0#32

/-- A magnitude is a number of 31 bits (R11). -/
theorem magNum_lt (w : Word) : magNum w < 2 ^ 31 := Nat.mod_lt _ (Nat.two_pow_pos 31)

/-- The sign field in the statements' spelling (R11). -/
theorem fx_sign_toNat_eq_signNum (w : Word) : (fx w).sign.toNat = signNum w := fx_sign_toNat w

/-- The magnitude field in the statements' spelling (R11). -/
theorem fx_mag_toNat_eq_magNum (w : Word) : (fx w).mag.toNat = magNum w := fx_mag_toNat w

/-- Equality of sign bits in the statements' spelling (R11). -/
theorem fx_sign_eq_iff_signNum (a b : Word) : (fx a).sign = (fx b).sign ↔ signNum a = signNum b := fx_sign_eq_iff a b

/-- The word of a sign and a wrapped magnitude as a number (R7, R12). -/
theorem pack_wrapMag_toNat (sg : Bool) (n : Nat) :
    (pack ⟨sg, wrapMag n⟩).toNat = packNum sg.toNat (n % 2 ^ 31) := by
  rw [pack_toNat, wrapMag_toNat, packNum]

/-- Exclusive-or of two sign bits as a number. -/
theorem xor_toNat (x y : Bool) : (x ^^ y).toNat = xorNum x.toNat y.toNat := by
  cases x <;> cases y <;> rfl

/-- The word of a product or quotient: the exclusive-or of the operands' signs, and a wrapped magnitude (R73, R75). -/
theorem pack_xor_wrapMag_toNat (a b : Word) (n : Nat) :
    (pack ⟨(fx a).sign ^^ (fx b).sign, wrapMag n⟩).toNat = packNum (xorNum (signNum a) (signNum b)) (n % 2 ^ 31) := by
  rw [pack_wrapMag_toNat, xor_toNat, fx_sign_toNat_eq_signNum, fx_sign_toNat_eq_signNum]

/-! ## ADD -/

/-- ADD's word as a number: only the sum of like signs can wrap, a difference of magnitudes fits (R71). -/
theorem pack_addValue_toNat (a b : Word) :
    (pack (addValue (fx a) (fx b))).toNat =
      if signNum a ≠ signNum b ∧ magNum b > magNum a then packNum (signNum b) (magNum b - magNum a)
      else if signNum a ≠ signNum b then packNum (signNum a) (magNum a - magNum b)
      else packNum (signNum a) ((magNum a + magNum b) % 2 ^ 31) := by
  have hfits (x y : Word) : (magNum x - magNum y) % 2 ^ 31 = magNum x - magNum y :=
    Nat.mod_eq_of_lt (Nat.sub_lt_of_lt (magNum_lt x))
  simp only [addValue, ne_eq, fx_sign_eq_iff_signNum, fx_mag_toNat_eq_magNum]
  split_ifs with hbLarger hlike
  · rw [pack_wrapMag_toNat, fx_sign_toNat_eq_signNum, hfits]
  · rw [pack_wrapMag_toNat, fx_sign_toNat_eq_signNum]
  · rw [pack_wrapMag_toNat, fx_sign_toNat_eq_signNum, hfits]

/-- Settles O30: ADD answers with its value's word, whose number follows R71's branches. -/
theorem addResult : Obligations.AddResult := by
  intro a b s
  refine ⟨encodedAs_of_readsB (i := .add a b) rfl, ?_⟩
  rw [← pack_addValue_toNat]
  exact completes_of_answer rfl s

/-! ## MUL -/

/-- One step of R73's loop adds a term of the sum. -/
theorem mulStep_eq_add (m f acc k : Nat) :
    mulStep m f acc k = acc + if f.testBit (16 - k) then m / 2 ^ k else 0 := by
  rw [mulStep, Config.mulSteps_eq, Nat.shiftRight_eq_div_pow]
  split <;> rfl

/-- The first `n` steps of R73's loop add the first `n` terms of the sum. -/
theorem foldl_mulStep_eq_add_sum (m f acc n : Nat) :
    (List.range' 1 n).foldl (mulStep m f) acc =
      acc + ∑ k ∈ Finset.Icc 1 n, if f.testBit (16 - k) then m / 2 ^ k else 0 := by
  induction n with
  | zero => rfl
  | succ n ih =>
    rw [List.range'_1_concat, List.foldl_concat, ih, mulStep_eq_add, Nat.add_comm 1 n,
      Finset.sum_Icc_succ_top (Nat.le_add_left 1 n), Nat.add_assoc]

/-- R73's accumulator for two operand words: the direct product by the integer part, and sixteen conditional terms. -/
theorem mulAcc_eq_add_sum (a b : Word) :
    mulAcc (fx a).mag (fx b).mag = magNum a * (magNum b / 2 ^ 16) +
      ∑ k ∈ Finset.Icc 1 16, if (magNum b % 2 ^ 16).testBit (16 - k) then magNum a / 2 ^ k else 0 := by
  rw [mulAcc, foldl_mulStep_eq_add_sum, intPart_eq, fracPart, fx_mag_toNat_eq_magNum, fx_mag_toNat_eq_magNum,
    Config.mulSteps_eq, Config.fracBits_eq]

/-- Settles O34: MUL answers with the word of its accumulator, which the loop makes a sum. -/
theorem mulResult : Obligations.MulResult := by
  intro a b s
  refine ⟨encodedAs_of_readsB (i := .mul a b) rfl, ?_⟩
  rw [← mulAcc_eq_add_sum, ← pack_xor_wrapMag_toNat]
  exact completes_of_answer rfl s

/-! ## DIV -/

/-- DIV's domain in the statements' spelling (R75, R76). -/
theorem divDefined_iff_magNum (b : Word) : divDefined (fx b) = true ↔ magNum b ≠ 0 := divDefined_iff b

/-- DIV's dividend as a number (R75). -/
theorem divDividend_eq (a : Word) : divDividend (fx a).mag = magNum a * 2 ^ 16 := by
  rw [divDividend, Nat.shiftLeft_eq, fx_mag_toNat_eq_magNum, Config.divShift_eq]

/-- DIV's word as a number: the wrapped truncated quotient (R75). -/
theorem pack_divValue_toNat (a b : Word) :
    (pack (divValue (fx a) (fx b))).toNat =
      packNum (xorNum (signNum a) (signNum b)) (magNum a * 2 ^ 16 / magNum b % 2 ^ 31) := by
  rw [divValue, pack_xor_wrapMag_toNat, divDividend_eq, fx_mag_toNat_eq_magNum]

/-- DIV with a divisor magnitude that is not zero answers with its value's word (R75). -/
theorem answer_div_of_magNum_ne_zero {a b : Word} (hb : magNum b ≠ 0) :
    answer (.div a b) = .ok (pack (divValue (fx a) (fx b))) := if_pos ((divDefined_iff_magNum b).mpr hb)

/-- DIV with a zero divisor magnitude answers with the fault (R76). -/
theorem answer_div_of_magNum_eq_zero {a b : Word} (hb : magNum b = 0) :
    answer (.div a b) = .error .divByZeroMagnitude := if_neg fun h => (divDefined_iff_magNum b).mp h hb

/-- Settles O37: the number that wraps in DIV's word is the truncated quotient, which lies between the two products. -/
theorem divResult : Obligations.DivResult := by
  intro a b s hb
  have hlower := Nat.div_mul_le_self (magNum a * 2 ^ 16) (magNum b)
  have hupper := Nat.lt_mul_of_div_lt (Nat.lt_add_one (magNum a * 2 ^ 16 / magNum b)) (Nat.pos_of_ne_zero hb)
  refine ⟨encodedAs_of_readsB (i := .div a b) rfl, magNum a * 2 ^ 16 / magNum b, hlower, hupper, ?_⟩
  rw [← pack_divValue_toNat]
  exact completes_of_answer (answer_div_of_magNum_ne_zero hb) s

/-- Settles O38: DIV faults where its answer is the fault, and a non-zero divisor magnitude gives a word instead. -/
theorem divStopsOnZeroMagnitude : Obligations.DivStopsOnZeroMagnitude := by
  intro a b s
  rw [exec_eq_fault_iff]
  constructor
  · intro hfault
    by_contra hb
    rw [answer_div_of_magNum_ne_zero hb] at hfault
    cases hfault
  · exact answer_div_of_magNum_eq_zero

end Sys2Proof.Proofs
end

section
/-! SUPPORT. Proofs of the statements about comparison (spec 42_compare.md). Every comparison answers with the word of
a truth value, so each result is the number of that truth value. -/

namespace Sys2Proof.Proofs

open Sys2Proof.Machine Sys2Proof.Slice0

/-- The command an operation is written as decodes to it (R47). -/
theorem decodeCommand_command (i : Instr) : decodeCommand i.command = .ok i :=
  (decodeCommand_eq_ok_iff i.command i).mpr (fieldsRead_command i).symm

/-- The result of an operation with an answer is its answer's number (R23). -/
theorem resultNum_of_answer {i : Instr} {v : Word} (ha : answer i = .ok v) : resultNum i = v.toNat := by
  rw [resultNum, resultOf_eq (decodeCommand_command i), ha]
  rfl

/-- An operation that answers with a truth value completes with its number (R44). -/
theorem completes_of_answer_boolWord {i : Instr} {t : Bool} (ha : answer i = .ok (boolWord t)) (s : State) :
    Completes i s t.toNat := by
  rw [← boolWord_toNat]
  exact completes_of_answer ha s

/-! ## LE and GE -/

/-- The number of a negated truth value. -/
theorem not_toNat (t : Bool) : (!t).toNat = 1 - t.toNat := by cases t <;> rfl

/-- An operation that answers with the negation of another's truth value completes with 1 minus the other's result. -/
theorem completes_one_sub_of_answer_not {i j : Instr} {t : Bool} (hi : answer i = .ok (boolWord !t))
    (hj : answer j = .ok (boolWord t)) (s : State) : Completes i s (1 - resultNum j) := by
  rw [resultNum_of_answer hj, boolWord_toNat, ← not_toNat]
  exact completes_of_answer_boolWord hi s

/-- Settles O43: LE's answer is the word of the negation of GT's truth value. -/
theorem leNegatesGt : Obligations.LeNegatesGt := by
  intro a b s
  have hgt : answer (.gt a b) = .ok (boolWord (gtTruth (fx a) (fx b))) := rfl
  exact ⟨encodedAs_of_readsB (i := .le a b) rfl, completes_one_sub_of_answer_not rfl hgt s⟩

/-- Settles O44: GE's answer is the word of the negation of LT's truth value. -/
theorem geNegatesLt : Obligations.GeNegatesLt := by
  intro a b s
  have hlt : answer (.lt a b) = .ok (boolWord (ltTruth (fx a) (fx b))) := rfl
  exact ⟨encodedAs_of_readsB (i := .ge a b) rfl, completes_one_sub_of_answer_not rfl hlt s⟩

/-! ## EQ and NE -/

/-- A truth value's number in the statements' spelling (R7). -/
theorem boolNum_eq_toNat (t : Bool) : boolNum t = t.toNat := by cases t <;> rfl

/-- Equality of magnitudes in the statements' spelling (R11, R98). -/
theorem magEq_eq_decide_magNum (a b : Word) : magEq (fx a) (fx b) = decide (magNum a = magNum b) := by
  rw [magEq, fx_mag_toNat_eq_magNum, fx_mag_toNat_eq_magNum]

/-- Settles O45: EQ's answer is the word of the equality of the two magnitudes. -/
theorem eqComparesMagnitudes : Obligations.EqComparesMagnitudes := by
  intro a b s
  refine ⟨encodedAs_of_readsB (i := .eq a b) rfl, ?_⟩
  rw [boolNum_eq_toNat, ← magEq_eq_decide_magNum]
  exact completes_of_answer_boolWord rfl s

/-- Settles O46: NE's answer is the word of the negated equality of the two magnitudes. -/
theorem neComparesMagnitudes : Obligations.NeComparesMagnitudes := by
  intro a b s
  refine ⟨encodedAs_of_readsB (i := .ne a b) rfl, ?_⟩
  rw [boolNum_eq_toNat, decide_not, ← magEq_eq_decide_magNum]
  exact completes_of_answer_boolWord rfl s

/-! ## All six -/

/-- An operation that answers with a truth value completes with 0 or 1 (R44). -/
theorem completes_zero_or_one_of_answer_boolWord {i : Instr} (ha : ∃ t, answer i = .ok (boolWord t)) (s : State) :
    Completes i s 0 ∨ Completes i s 1 := by
  obtain ⟨t, ht⟩ := ha
  cases t with
  | false => exact .inl (completes_of_answer_boolWord ht s)
  | true => exact .inr (completes_of_answer_boolWord ht s)

/-- Each comparison answers with a truth value (R90). -/
theorem answer_comparison_eq_boolWord (a b : Word) :
    ∀ i ∈ [Instr.lt a b, .gt a b, .le a b, .ge a b, .eq a b, .ne a b], ∃ t, answer i = .ok (boolWord t) := by
  simp only [List.forall_mem_cons]
  exact ⟨⟨_, rfl⟩, ⟨_, rfl⟩, ⟨_, rfl⟩, ⟨_, rfl⟩, ⟨_, rfl⟩, ⟨_, rfl⟩, List.forall_mem_nil _⟩

/-- Settles O47: a truth value is one of two, and each of them is 0 or 1 as a number. -/
theorem comparisonsAnswerBool : Obligations.ComparisonsAnswerBool := by
  intro a b s i hi
  exact completes_zero_or_one_of_answer_boolWord (answer_comparison_eq_boolWord a b i hi) s

end Sys2Proof.Proofs
end

section
/-! SUPPORT. Proofs of the statements about formatting (spec 44_format.md). Both operations read `a` alone and answer with
the word of a natural number, so each result is that number, which has to fit a word. -/

namespace Sys2Proof.Proofs

open Sys2Proof.Machine Sys2Proof.Slice0

/-- The word `{op, a, b}` of an operation that does not read its `b` field decodes to it, whatever `b` is (R45, R47). -/
theorem encodedAs_of_not_readsB {i : Instr} (h : readsB i = false) (b : Word) :
    EncodedAs i.opCode i.command.a b i := by
  rw [EncodedAs, decode_word]
  simpa only [h, Bool.false_eq_true, if_false] using decodeCommand_of_fields i b

/-! ## WHOLE -/

/-- WHOLE's word as a number: the part of the magnitude above the fraction bits (R106). -/
theorem natWord_intPart_toNat (a : Word) : (natWord (intPart (fx a).mag)).toNat = magNum a / 2 ^ 16 := by
  have hmag := magNum_lt a
  have hint : intPart (fx a).mag = magNum a / 2 ^ 16 := by rw [intPart_eq, fx_mag_toNat_eq_magNum]
  rw [hint, natWord_toNat (by omega)]

/-- Settles O54: WHOLE answers with the word of the magnitude's part above the fraction bits. -/
theorem wholeResult : Obligations.WholeResult := by
  intro a b s
  refine ⟨encodedAs_of_not_readsB (i := .whole a) rfl b, ?_⟩
  rw [← natWord_intPart_toNat]
  exact completes_of_answer rfl s

/-! ## DIG10 -/

/-- DIG10's word as a number: ten times the fraction field, which fits 20 bits (R107). -/
theorem natWord_fracField_mul_radix_toNat (a : Word) :
    (natWord (fracField a * Config.radix)).toNat = a.toNat % 2 ^ 16 * 10 := by
  rw [fracField_eq, Config.radix_eq, natWord_toNat (by omega)]

/-- DIG10's result as a number, at the state it is read at (R23, R107). -/
theorem resultNum_dig10 (a : Word) : resultNum (.dig10 a) = a.toNat % 2 ^ 16 * 10 := by
  have hanswer : answer (.dig10 a) = .ok (natWord (fracField a * Config.radix)) := rfl
  rw [resultNum_of_answer hanswer, natWord_fracField_mul_radix_toNat]

/-- The digit is at most 9, because the fraction field is below 2^16 (R107). -/
theorem resultNum_dig10_div_le_nine (a : Word) : resultNum (.dig10 a) / 2 ^ 16 ≤ 9 := by
  have hfrac : a.toNat % 2 ^ 16 < 2 ^ 16 := Nat.mod_lt _ (Nat.two_pow_pos 16)
  rw [resultNum_dig10]
  omega

/-- Settles O55: DIG10 answers with the word of ten times the fraction field, whose digit is bounded by that field. -/
theorem dig10Result : Obligations.Dig10Result := by
  intro a b s
  refine ⟨encodedAs_of_not_readsB (i := .dig10 a) rfl b, ?_, resultNum_dig10_div_le_nine a⟩
  rw [← natWord_fracField_mul_radix_toNat]
  exact completes_of_answer rfl s

end Sys2Proof.Proofs
end

section
/-! SUPPORT. Proofs of the remaining statements about the encoding (spec 30_encoding.md), and of those about the step
and the interface (20_memory.md, 70_reset_and_hazards.md). A step that goes on is one of five edges (`step_next_cases`);
each invariant is then one small fact for each edge. -/

namespace Sys2Proof.Proofs

open Sys2Proof.Machine Sys2Proof.Slice0

/-! ## Encoding -/

/-- Settles O2: the word's fields are the operation's command, and that command decodes to the operation. -/
theorem decodeOfEncode : Obligations.DecodeOfEncode := by
  intro i
  rw [decode, encode, Command.ofBits_toBits]
  exact decodeCommand_command i

/-- Settles O1: each word is written as its three fields, and the decoder looks those up. -/
theorem sampleWordsDecode : Obligations.SampleWordsDecode :=
  ⟨decode_word 0x01#8 0xFFFFFFFD#32 0#32, decode_word 0x13#8 0x00038000#32 0x00024000#32,
    decode_word 0x20#8 0x80020000#32 0x80010000#32, decode_word 0x30#8 0x80024000#32 0xDEADBEEF#32,
    decode_word 0x41#8 0x00001999#32 0#32⟩

/-- The values of `op` that R42 does not list are those of R46's ranges. -/
theorem listed_eq_false_iff_reservedNum (op : OpCode) : OpCode.listed op = false ↔ reservedNum op.toNat := by
  have hlt := op.isLt
  simp only [OpCode.listed, listedOps, List.contains_eq_mem, List.mem_cons, List.not_mem_nil, or_false,
    decide_eq_false_iff_not, BitVec.toNat_eq, BitVec.toNat_ofNat, reservedNum]
  omega

/-- A command with a reserved op code is rejected by it (R46). -/
theorem decodeCommand_of_not_listed {c : Command} (h : OpCode.listed c.op = false) :
    decodeCommand c = .error (.reservedOp c.op) := by
  obtain ⟨i, -, hop, -⟩ | ⟨herr, -⟩ := decodeCommand_cases c
  · rw [← hop, opCode_listed] at h
    cases h
  · exact herr

/-- Every value of `op` from 0x80 on is reserved (R46). -/
theorem listed_high_eq_false {k : Nat} (hk : k < 128) : OpCode.listed (BitVec.ofNat 8 (128 + k)) = false := by
  rw [listed_eq_false_iff_reservedNum, BitVec.toNat_ofNat, reservedNum]
  omega

/-- R46: 240 values are reserved, 112 below 0x80 and the 128 others. -/
theorem length_filter_not_listed :
    ((List.range 256).filter (fun n => !OpCode.listed (BitVec.ofNat 8 n))).length = 240 := by
  have hlow : ((List.range 128).filter (fun n => !OpCode.listed (BitVec.ofNat 8 n))).length = 112 := by decide
  have hhigh : ((List.range 128).map (128 + ·)).filter (fun n => !OpCode.listed (BitVec.ofNat 8 n)) =
      (List.range 128).map (128 + ·) := by
    simp +contextual [List.filter_eq_self, listed_high_eq_false]
  rw [show 256 = 128 + 128 from rfl, List.range_add, List.filter_append, List.length_append, hlow, hhigh,
    List.length_map, List.length_range]

/-- Settles O4: the reserved values are R46's ranges by arithmetic, and a latched one is rejected by the decoder. -/
theorem reservedOpsRefused : Obligations.ReservedOpsRefused := by
  refine ⟨listed_eq_false_iff_reservedNum, length_filter_not_listed, fun s hb hr hop => ?_⟩
  exact step_inFlight_of_reserved hb hr
    (decodeCommand_of_not_listed ((listed_eq_false_iff_reservedNum s.op).mpr hop))

/-! ## What a step can do -/

/-- A step that goes on is one of the five edges of R32 and R140. -/
theorem step_next_cases {s t : State} (h : step s = .next t) :
    (s.cycle.rst = true ∧ t = s.popCycle.resetEdge) ∨
    (s.cycle.rst = false ∧ s.busy = true ∧ s.remaining ≤ 1 ∧
      ∃ v, resultOf s.latched = some v ∧ t = s.popCycle.writeR v) ∨
    (s.cycle.rst = false ∧ s.busy = true ∧ 1 < s.remaining ∧ t = s.popCycle.waitEdge) ∨
    (s.cycle.rst = false ∧ s.busy = false ∧ s.cycle.cmdValid = true ∧ t = s.popCycle.acceptEdge s.cycle.cmd) ∨
    (s.cycle.rst = false ∧ s.busy = false ∧ s.cycle.cmdValid = false ∧ t = s.popCycle.idleEdge) := by
  obtain ⟨hrst, hs⟩ | ⟨hrst, hb, hs⟩ | ⟨hrst, hb, hv, hs⟩ | ⟨hrst, hb, hv, hs⟩ := step_cases s
  · rw [hs] at h
    cases h
    exact .inl ⟨hrst, rfl⟩
  · rw [hs] at h
    obtain ⟨i, v, hd, ha, hdue, he⟩ | ⟨i, v, -, -, hwait, he⟩ | ⟨i, f, -, -, he⟩ | ⟨op, -, he⟩ :=
      inFlightEdge_cases s.popCycle
    · rw [he] at h
      cases h
      have hresult : resultOf s.popCycle.latched = some v := by rw [resultOf_eq hd, ha]; rfl
      exact .inr (.inl ⟨hrst, hb, hdue, v, hresult, rfl⟩)
    · rw [he] at h
      cases h
      exact .inr (.inr (.inl ⟨hrst, hb, hwait, rfl⟩))
    · rw [he] at h
      cases h
    · rw [he] at h
      cases h
  · rw [hs] at h
    cases h
    exact .inr (.inr (.inr (.inl ⟨hrst, hb, hv, rfl⟩)))
  · rw [hs] at h
    cases h
    exact .inr (.inr (.inr (.inr ⟨hrst, hb, hv, rfl⟩)))

/-- What a step does depends on the state with the cycle taken off the port, on `rst`, and, where the block is idle, on
the command pins. -/
theorem step_congr {s s' : State} (hpop : s.popCycle = s'.popCycle) (hrst : s.cycle.rst = s'.cycle.rst)
    (hpins : s.busy = false → s.cycle.cmdValid = s'.cycle.cmdValid ∧ s.cycle.cmd = s'.cycle.cmd) :
    step s = step s' := by
  simp only [step, clockEdge, ← hpop, ← hrst]
  by_cases hb : s.popCycle.busy = true
  · rw [if_pos hb, if_pos hb]
  · obtain ⟨hvalid, hcmd⟩ := hpins (Bool.eq_false_of_not_eq_true hb)
    rw [hvalid, hcmd]

/-- Taking a cycle off the port: the rest of the port, and the count of a faulty read. -/
theorem popCycle_cons (s : State) (c : PortCycle) (rest : List PortCycle) :
    State.popCycle { s with port := c :: rest } =
      { s with port := rest, misreads := s.misreads + (c.samplesR && !s.rv).toNat } := rfl

/-- A latency is at least 1 (R147). -/
theorem one_le_latency (n : Nat) (op : OpCode) (a b : Word) : 1 ≤ Config.latency n op a b := Nat.le_add_left 1 _

/-! ## The invariant -/

/-- A reset edge gives a consistent state from any. -/
theorem inv_resetEdge (s : State) : s.resetEdge.Inv := by simp [State.Inv]

/-- A response of the latched command's result gives a consistent state. -/
theorem inv_writeR {s : State} {v : Word} (h : resultOf s.latched = some v) : (s.writeR v).Inv := by
  simp [State.Inv, h]

/-- Waiting keeps a busy state consistent while there is more than one edge to go. -/
theorem inv_waitEdge {s : State} (hs : s.Inv) (hb : s.busy = true) (hwait : 1 < s.remaining) : s.waitEdge.Inv := by
  obtain ⟨hexclusive, -, -, -, -⟩ := hs
  have hrv := hexclusive hb
  have hleft : 1 ≤ s.remaining - 1 := by omega
  exact ⟨fun _ => hrv, fun _ => hleft, fun hidle => Bool.noConfusion (hb.symm.trans hidle), Bool.noConfusion,
    fun hvalid => Bool.noConfusion (hrv.symm.trans hvalid)⟩

/-- Acceptance gives a consistent state from any. -/
theorem inv_acceptEdge (s : State) (c : Command) : (s.acceptEdge c).Inv := by
  simp [State.Inv, one_le_latency]

/-- An idle edge keeps a state consistent. -/
theorem inv_idleEdge {s : State} (hs : s.Inv) : s.idleEdge.Inv := by
  obtain ⟨hexclusive, hbusy, hidle, -, hresult⟩ := hs
  exact ⟨hexclusive, hbusy, hidle, Bool.noConfusion, hresult⟩

/-- Taking a cycle off the port does not touch the consistent part of a state. -/
theorem inv_popCycle {s : State} (hs : s.Inv) : s.popCycle.Inv := hs

/-- Settles O19: each of the five edges a step can be gives a consistent state. -/
theorem stepKeepsConsistency : Obligations.StepKeepsConsistency := by
  intro s t hs h
  have hpop := inv_popCycle hs
  obtain ⟨-, rfl⟩ | ⟨-, -, -, v, hv, rfl⟩ | ⟨-, hb, hwait, rfl⟩ | ⟨-, -, -, rfl⟩ | ⟨-, -, -, rfl⟩ := step_next_cases h
  · exact inv_resetEdge s.popCycle
  · exact inv_writeR hv
  · exact inv_waitEdge hpop hb hwait
  · exact inv_acceptEdge s.popCycle s.cycle.cmd
  · exact inv_idleEdge hpop

/-- Settles O18: the state after reset is idle without a result, and nothing is in flight. -/
theorem resetIsConsistent : Obligations.ResetIsConsistent := by
  simp [Obligations.ResetIsConsistent, State.Inv, State.reset]

/-- The status view as a number (R19). -/
theorem st_toNat (s : State) : s.st.toNat = 2 * boolNum s.rv + boolNum s.busy := by
  rw [State.st]
  cases s.rv <;> cases s.busy <;> rfl

/-- Settles O20: `ST` is 3 only with both flags 1, which the invariant excludes. -/
theorem statusNeverBoth : Obligations.StatusNeverBoth := by
  intro s hs h
  obtain ⟨hexclusive, -, -, -, -⟩ := hs
  have hst := st_toNat s
  rw [h] at hst
  cases hb : s.busy with
  | true => simp [hb, hexclusive hb, boolNum] at hst
  | false => cases hrv : s.rv <;> simp [hb, hrv, boolNum] at hst

/-! ## A host that keeps to the rules -/

/-- A step counts the faulty read of its cycle and no other (log 9). -/
theorem step_misreads {s t : State} (h : step s = .next t) : t.misreads = s.misreads + s.misread.toNat := by
  obtain ⟨-, rfl⟩ | ⟨-, -, -, v, -, rfl⟩ | ⟨-, -, -, rfl⟩ | ⟨-, -, -, rfl⟩ | ⟨-, -, -, rfl⟩ := step_next_cases h <;> rfl

/-- A step keeps the command in flight a defined one, when the host presents no other (R46, R65, R76). -/
theorem step_keeps_flightDefined {s t : State} (hflight : s.FlightDefined) (hissue : s.HostIssuesDefined)
    (h : step s = .next t) : t.FlightDefined := by
  intro hbusy
  obtain ⟨-, rfl⟩ | ⟨-, -, -, v, -, rfl⟩ | ⟨-, hb, -, rfl⟩ | ⟨hrst, hb, hv, rfl⟩ | ⟨-, hb, -, rfl⟩ := step_next_cases h
  · cases hbusy
  · cases hbusy
  · exact hflight hb
  · exact hissue hv hb hrst
  · exact Bool.noConfusion (hb.symm.trans hbusy)

/-- A step goes on unless an undefined or reserved command is in flight. -/
theorem step_next_of_flightDefined {s : State} (hflight : s.FlightDefined) : ∃ t, step s = .next t := by
  obtain ⟨-, hs⟩ | ⟨-, hb, hs⟩ | ⟨-, -, -, hs⟩ | ⟨-, -, -, hs⟩ := step_cases s
  · exact ⟨_, hs⟩
  · obtain ⟨i, v, hd, ha⟩ := (mayIssue_iff s.latched).mp (hflight hb)
    rw [hs, inFlightEdge_of_answer (s := s.popCycle) hd ha]
    split
    · exact ⟨_, rfl⟩
    · exact ⟨_, rfl⟩
  · exact ⟨_, hs⟩
  · exact ⟨_, hs⟩

/-- Settles O21: only a command in flight can stop a step, and a valid read is not counted. -/
theorem obedientHostNeverStopped : Obligations.ObedientHostNeverStopped := by
  intro s hflight hissue
  obtain ⟨t, ht⟩ := step_next_of_flightDefined hflight
  refine ⟨t, ht, step_keeps_flightDefined hflight hissue ht, fun hread => ?_⟩
  rw [step_misreads ht, misread_of_readsValid hread]
  rfl

/-! ## Pins that do not matter -/

/-- Settles O10: the two states are the same once the cycle is taken off, and a busy block looks at no command pin. -/
theorem busyBlockIgnoresCommandPins : Obligations.BusyBlockIgnoresCommandPins := by
  intro s c d rest hb hrst hread
  constructor
  · refine step_congr ?_ hrst fun hidle => Bool.noConfusion (hb.symm.trans hidle)
    rw [popCycle_cons, popCycle_cons, hread]
  · simp [State.outputs, hb]

/-- Settles O13: a read with a valid result is not counted, and the count is all that a faulty one changes. -/
theorem readOfResult : Obligations.ReadOfResult := by
  intro s c rest hread
  constructor
  · intro hrv
    refine ⟨readR_of_valid hrv, step_congr ?_ rfl fun _ => ⟨rfl, rfl⟩⟩
    rw [popCycle_cons, popCycle_cons, hrv, Bool.not_true, Bool.and_false, Bool.and_false]
  · intro hrv
    refine ⟨readR_of_not_valid hrv, step_congr ?_ rfl fun _ => ⟨rfl, rfl⟩⟩
    have hcounted : (c.samplesR && !s.rv).toNat = 1 := by rw [hread, hrv]; rfl
    rw [popCycle_cons, hcounted]
    rfl

/-- A cycle without a read is no faulty read. -/
theorem misread_of_not_samplesR {s : State} (h : s.cycle.samplesR = false) : s.misread = false := by
  simp [State.misread, h]

/-- The state after a reset edge is a function of the model's counters and the port (log 2). -/
theorem resetEdge_congr {s s' : State} (hdraws : s.draws = s'.draws) (hmisreads : s.misreads = s'.misreads)
    (hport : s.port = s'.port) : s.resetEdge = s'.resetEdge := by
  simp only [State.resetEdge, hdraws, hmisreads, hport]

/-- A step in a cycle with `rst = 1` (R140, R141). -/
theorem step_of_reset {s : State} (h : s.cycle.rst = true) : step s = .next s.popCycle.resetEdge := by
  rw [step, clockEdge, if_pos h]

/-- Settles O11: the step is the reset edge, which keeps the counters and the port alone. -/
theorem resetEdgeForgets : Obligations.ResetEdgeForgets := by
  intro s hrst
  refine ⟨⟨_, step_of_reset hrst, rfl, rfl, rfl, rfl⟩, fun s' hread hdraws hmisreads hport => ?_⟩
  have hcycle : s'.cycle = s.cycle := by rw [State.cycle, State.cycle, hport]
  have hnoMisread : s.misread = false := misread_of_not_samplesR hread
  have hnoMisread' : s'.misread = false := misread_of_not_samplesR (hcycle ▸ hread)
  rw [step_of_reset hrst, step_of_reset (hcycle ▸ hrst)]
  congr 1
  apply resetEdge_congr
  · simpa using hdraws
  · simp [hmisreads, hnoMisread, hnoMisread']
  · simp [hport]

/-- Settles O12: each pin is the field or view it is named for, forced to 0 by `rst` where R140 says so. -/
theorem outputPins : Obligations.OutputPins := by
  intro s
  refine ⟨rfl, rfl, rfl, rfl, rfl, fun _ => rfl, readR_of_valid, st_toNat s⟩

/-- Settles O17: the state after reset holds these values, and a read of it with `RV = 0` sees a free value. -/
theorem resetValues : Obligations.ResetValues := ⟨rfl, rfl, rfl, rfl, rfl, readR_of_not_valid rfl⟩

/-! ## Single edges -/

/-- A step with a command in flight and due is `exec` of its operation, a faulting one too (R32). -/
theorem step_due_eq_exec {s : State} {i : Instr} (hb : s.busy = true) (hdue : s.remaining ≤ 1) (hr : noReset s.cycle)
    (hd : decodeCommand s.latched = .ok i) : step s = exec i s.popCycle := by
  obtain ⟨v, ha, he⟩ | ⟨f, ha, he⟩ := exec_cases i s.popCycle
  · rw [he, step_due_of_answer hb hdue hr hd ha]
  · rw [he, step_inFlight_of_fault hb hr hd ha]

/-- Settles O6: a due step is `exec`, whether its operation answers or faults. -/
theorem stepRunsDueCommand : Obligations.StepRunsDueCommand := fun _ _ => step_due_eq_exec

/-- The fields of a command word given as a number (R40). -/
theorem ofBits_ofNat {w : Nat} (h : w < 2 ^ 72) :
    Command.ofBits (BitVec.ofNat 72 w) =
      ⟨BitVec.ofNat 8 (w / 2 ^ 64), BitVec.ofNat 32 (w / 2 ^ 32), BitVec.ofNat 32 w⟩ := by
  simp only [Command.ofBits, Command.mk.injEq, BitVec.toNat_eq, BitVec.extractLsb'_toNat, BitVec.toNat_ofNat,
    Nat.shiftRight_eq_div_pow, Nat.mod_eq_of_lt h, Nat.pow_zero, Nat.div_one, and_self]

/-- A 72-bit number that is an operation's table word decodes to it as a word. -/
theorem decode_of_decodeTableWord {w : Nat} {i : Instr} (hw : w < 2 ^ 72) (h : decodeTableWord 72 w = some i) :
    decode (BitVec.ofNat 72 w) = .ok i := by
  simp only [decodeTableWord, Nat.mod_eq_of_lt hw, if_pos hw] at h
  cases hd : decode (BitVec.ofNat 72 w) with
  | ok j => rw [hd] at h; cases h; rfl
  | error e => rw [hd] at h; cases h

/-- Taking the quiet cycle off a state in which a command was placed. -/
theorem popCycle_placeCommand (s : State) (c : Command) :
    (s.placeCommand c).popCycle =
      { s with op := c.op, a := c.a, b := c.b, rv := false, busy := true, rspValid := false, remaining := 1 } := rfl

/-- Settles O7: the placed command is in flight and due, so the step is `exec` of it. -/
theorem stepRunsPlacedWord : Obligations.StepRunsPlacedWord := by
  intro s w i hw hi
  have hfields := ofBits_ofNat hw
  have hd : decodeCommand (s.placeCommand (Command.ofBits (BitVec.ofNat 72 w))).latched = .ok i :=
    decode_of_decodeTableWord hw hi
  rw [State.withFetchWord, Nat.mod_eq_of_lt hw,
    step_due_eq_exec (State.placeCommand_busy s _) (Nat.le_refl 1) rfl hd, popCycle_placeCommand, hfields]

/-- A step without reset of an idle block to which a command is presented accepts it (R32). -/
theorem step_accept {s : State} (hb : s.busy = false) (hr : noReset s.cycle) (hv : s.cycle.cmdValid = true) :
    step s = .next (s.popCycle.acceptEdge s.cycle.cmd) := by
  rw [step_of_noReset hr, hb, hv, if_neg Bool.false_ne_true, if_pos rfl]

/-- A step without reset of an idle block to which nothing is presented. -/
theorem step_idle {s : State} (hb : s.busy = false) (hr : noReset s.cycle) (hv : s.cycle.cmdValid = false) :
    step s = .next s.popCycle.idleEdge := by
  rw [step_of_noReset hr, hb, hv, if_neg Bool.false_ne_true, if_neg Bool.false_ne_true]

/-- A step without reset of a block with a defined command in flight that is not due waits (R32, R147). -/
theorem step_wait {s : State} (hb : s.busy = true) (hwait : 1 < s.remaining) (hr : noReset s.cycle)
    (hissue : mayIssue s.latched = true) : step s = .next s.popCycle.waitEdge := by
  obtain ⟨i, v, hd, ha⟩ := (mayIssue_iff s.latched).mp hissue
  rw [step_of_inFlight hb hr, inFlightEdge_of_answer (s := s.popCycle) hd ha, State.popCycle_remaining,
    if_neg (Nat.not_le.mpr hwait)]

/-- Settles O8: the step is the acceptance edge. -/
theorem acceptanceSamplesCommand : Obligations.AcceptanceSamplesCommand := by
  intro s hb hr hv
  exact ⟨_, step_accept hb hr hv, rfl, rfl, rfl, rfl, one_le_latency _ _ _ _, rfl⟩

/-- Settles O9: the step is the waiting edge. -/
theorem commandInFlightWaits : Obligations.CommandInFlightWaits := by
  intro s hb hwait hr hissue
  exact ⟨_, step_wait hb hwait hr hissue, rfl, hb, rfl, rfl, rfl, rfl⟩

/-! ## What every step keeps -/

/-- A response pulse comes only from the edge that writes `R` for a command in flight and due. -/
theorem due_of_step_rspValid {s t : State} (h : step s = .next t) (hpulse : t.rspValid = true) :
    s.busy = true ∧ s.remaining ≤ 1 ∧ t.rv = true ∧ t.busy = false := by
  obtain ⟨-, rfl⟩ | ⟨-, hb, hdue, v, -, rfl⟩ | ⟨-, -, -, rfl⟩ | ⟨-, -, -, rfl⟩ | ⟨-, -, -, rfl⟩ := step_next_cases h
  · cases hpulse
  · exact ⟨hb, hdue, rfl, rfl⟩
  · cases hpulse
  · cases hpulse
  · cases hpulse

/-- Settles O15: a pulse leaves the block idle, and an idle block raises none. -/
theorem responsePulseIsOneCycle : Obligations.ResponsePulseIsOneCycle := by
  intro s t u h hpulse
  obtain ⟨hb, hdue, hrv, hidle⟩ := due_of_step_rspValid h hpulse
  refine ⟨hb, hdue, hrv, hidle, fun hu => ?_⟩
  by_contra hagain
  obtain ⟨hbusy, -⟩ := due_of_step_rspValid hu (by simpa using hagain)
  exact Bool.noConfusion (hidle.symm.trans hbusy)

/-- Settles O16: of the five edges, acceptance alone raises `BUSY`, the response alone raises `RV`, and an idle block
keeps a result that stays valid. -/
theorem whatChangesTheFlags : Obligations.WhatChangesTheFlags := by
  intro s t h
  obtain ⟨-, rfl⟩ | ⟨hrst, hb, -, v, -, rfl⟩ | ⟨-, hb, -, rfl⟩ | ⟨hrst, hb, hv, rfl⟩ | ⟨-, hb, -, rfl⟩ :=
    step_next_cases h
  · simp
  · simp [hrst, hb]
  · simp +contextual [hb]
  · simp [hrst, hv]
  · simp +contextual [hb]

/-! ## Runs of edges -/

/-- What holds of a quiet cycle and of the next `n + 1` cycles holds of the next cycle, and of the `n` after it. -/
theorem cycle_and_rest_of_forall_take {P : PortCycle → Prop} {s : State} {n : Nat} (hquiet : P .quiet)
    (h : ∀ c ∈ s.port.take (n + 1), P c) : P s.cycle ∧ ∀ c ∈ s.port.tail.take n, P c := by
  rw [State.cycle]
  cases hp : s.port with
  | nil => exact ⟨hquiet, by simp⟩
  | cons c rest =>
    rw [hp, List.take_succ_cons] at h
    exact ⟨h c List.mem_cons_self, fun d hd => h d (List.mem_cons_of_mem c hd)⟩

/-- Settles O14: each of the `n` steps is an idle edge. -/
theorem idleBlockKeepsResult : Obligations.IdleBlockKeepsResult := by
  intro n
  induction n with
  | zero => exact fun s hb _ => ⟨s, rfl, rfl, rfl, hb, rfl, rfl, fun h => absurd h (Nat.lt_irrefl 0)⟩
  | succ n ih =>
    intro s hb hquiet
    obtain ⟨⟨hr, hv⟩, hrest⟩ :=
      cycle_and_rest_of_forall_take (P := fun c => noReset c ∧ c.cmdValid = false) ⟨rfl, rfl⟩ hquiet
    obtain ⟨t, hrun, htr, htrv, htb, htl, htp, hpulse⟩ := ih s.popCycle.idleEdge hb hrest
    refine ⟨t, ?_, htr, htrv, htb, htl, ?_, fun _ => ?_⟩
    · rw [runEdges_of_step (step_idle hb hr hv), hrun]
    · rw [htp, State.idleEdge_port, State.popCycle_port, List.drop_tail]
    · cases n with
      | zero => cases hrun; rfl
      | succ n => exact hpulse (Nat.succ_pos n)

/-- One more edge after a run. -/
theorem runEdges_succ_of_runEdges {s t : State} {n : Nat} (h : runEdges n s = .next t) :
    runEdges (n + 1) s = step t := by
  induction n generalizing s with
  | zero =>
    cases h
    rw [runEdges]
    split
    next u hu => rw [hu, runEdges_zero]
    next f hf => rw [hf]
    next x hx => rw [hx]
  | succ n ih =>
    rw [runEdges] at h
    split at h
    next u hu => rw [runEdges_of_step hu, ih h]
    all_goals cases h

/-- The command is in flight with `n` edges to go, no result is shown, and the host's coming cycles are `port`. -/
def Awaits (c : Command) (n : Nat) (port : List PortCycle) (s : State) : Prop :=
  s.latched = c ∧ s.busy = true ∧ s.rv = false ∧ s.rspValid = false ∧ s.remaining = n ∧ s.port = port

/-- A command is presented to an idle block in a cycle without `rst`, its latency is `lat`, and the host does not reset
the block in the `lat` cycles after that. -/
def Presented (s : State) (c : PortCycle) (rest : List PortCycle) (lat : Nat) : Prop :=
  s.busy = false ∧ s.port = c :: rest ∧ noReset c ∧ c.cmdValid = true ∧
    lat = Config.latency s.draws c.cmd.op c.cmd.a c.cmd.b ∧ ∀ d ∈ rest.take lat, noReset d

/-- The latency of a presented command is at least 1 (R147). -/
theorem Presented.one_le {s : State} {c : PortCycle} {rest : List PortCycle} {lat : Nat} (h : Presented s c rest lat) :
    1 ≤ lat := by
  obtain ⟨-, -, -, -, hlat, -⟩ := h
  exact hlat ▸ one_le_latency _ _ _ _

/-- After acceptance the block awaits the response for `LAT` edges (R32, R147). -/
theorem Presented.step {s : State} {c : PortCycle} {rest : List PortCycle} {lat : Nat} (h : Presented s c rest lat) :
    ∃ t, step s = .next t ∧ Awaits c.cmd lat rest t := by
  obtain ⟨hb, hport, hr, hv, hlat, -⟩ := h
  have hcycle : s.cycle = c := by rw [State.cycle, hport]; rfl
  refine ⟨s.popCycle.acceptEdge c.cmd, ?_, rfl, rfl, rfl, rfl, hlat.symm, ?_⟩
  · rw [step_accept hb (hcycle ▸ hr) (hcycle ▸ hv), hcycle]
  · rw [State.acceptEdge_port, State.popCycle_port, hport, List.tail_cons]

/-- `k` edges, fewer than are left, bring a defined command `k` edges nearer to its response. -/
theorem runEdges_awaits {c : Command} (hissue : mayIssue c = true) (k : Nat) :
    ∀ {n : Nat} {port : List PortCycle} {s : State}, Awaits c n port s → k < n → (∀ d ∈ port.take k, noReset d) →
      ∃ u, runEdges k s = .next u ∧ Awaits c (n - k) (port.drop k) u := by
  induction k with
  | zero => exact fun hs _ _ => ⟨_, rfl, hs⟩
  | succ k ih =>
    intro n port s ⟨hl, hb, hrv, hpulse, hn, hport⟩ hk hrest
    obtain ⟨hr, hrest'⟩ := cycle_and_rest_of_forall_take (P := noReset) (s := s) rfl (hport ▸ hrest)
    have hstep := step_wait hb (by omega) hr (hl ▸ hissue)
    have hnext : Awaits c (n - 1) port.tail s.popCycle.waitEdge := ⟨hl, hb, hrv, rfl, by simp [hn], by simp [hport]⟩
    obtain ⟨u, hrun, hu⟩ := ih hnext (by omega) (hport ▸ hrest')
    refine ⟨u, by rw [runEdges_of_step hstep, hrun], ?_⟩
    rwa [List.drop_tail, Nat.sub_sub, Nat.add_comm 1 k] at hu

/-- After `k` edges, at most `LAT`, from its presentation, a defined command awaits its response with the edges of `LAT`
that are left. -/
theorem Presented.runEdges_awaits {s : State} {c : PortCycle} {rest : List PortCycle} {lat k : Nat}
    (h : Presented s c rest lat) (hissue : mayIssue c.cmd = true) (hk : 1 ≤ k) (hkl : k ≤ lat) :
    ∃ u, runEdges k s = .next u ∧ Awaits c.cmd (lat - (k - 1)) (rest.drop (k - 1)) u := by
  obtain ⟨t, hstep, ht⟩ := h.step
  obtain ⟨-, -, -, -, -, hrest⟩ := h
  obtain ⟨u, hrun, hu⟩ := Proofs.runEdges_awaits hissue (k - 1) ht (by omega)
    fun d hd => hrest d (List.take_subset_take_left rest (by omega) hd)
  refine ⟨u, ?_, hu⟩
  rw [← Nat.sub_add_cancel hk, runEdges_of_step hstep, hrun]

/-- The edge after `LAT` of them writes the answer, at a state that awaits it. -/
theorem Presented.runEdges_response {s : State} {c : PortCycle} {rest : List PortCycle} {lat : Nat} {i : Instr}
    {v : Word} (h : Presented s c rest lat) (hd : decodeCommand c.cmd = .ok i) (ha : answer i = .ok v) :
    ∃ u, Awaits c.cmd 1 (rest.drop (lat - 1)) u ∧ runEdges (lat + 1) s = .next (u.popCycle.writeR v) := by
  have hissue := (mayIssue_iff c.cmd).mpr ⟨i, v, hd, ha⟩
  obtain ⟨u, hrun, hu⟩ := h.runEdges_awaits hissue h.one_le (Nat.le_refl lat)
  rw [Nat.sub_sub_self h.one_le] at hu
  obtain ⟨hl, hbusy, -, -, hn, hup⟩ := id hu
  have hlast : ∀ d ∈ u.port.take 1, noReset d := by
    intro d hmem
    have hwindow : (rest.take lat).drop (lat - 1) = (rest.drop (lat - 1)).take 1 := by
      rw [List.drop_take, Nat.sub_sub_self h.one_le]
    obtain ⟨-, -, -, -, -, hrest⟩ := h
    rw [hup, ← hwindow] at hmem
    exact hrest d (List.mem_of_mem_drop hmem)
  obtain ⟨hru, -⟩ := cycle_and_rest_of_forall_take (P := noReset) (s := u) rfl hlast
  refine ⟨u, hu, ?_⟩
  rw [runEdges_succ_of_runEdges hrun, step_due_of_answer hbusy (Nat.le_of_eq hn) hru (hl ▸ hd) ha]

/-- The host's cycles after the one in which the response is given. -/
theorem Presented.port_after_response {s u : State} {c : PortCycle} {rest : List PortCycle} {lat : Nat}
    (h : Presented s c rest lat) (hport : u.port = rest.drop (lat - 1)) : u.port.tail = rest.drop lat := by
  rw [hport, List.tail_drop, Nat.sub_add_cancel h.one_le]

/-- Settles O22: `LAT` edges of waiting, then the edge that writes the answer. -/
theorem acceptedCommandGetsItsResponse : Obligations.AcceptedCommandGetsItsResponse := by
  intro s c rest lat hb hport hr hv hissue hlat hrest
  have h : Presented s c rest lat := ⟨hb, hport, hr, hv, hlat, hrest⟩
  obtain ⟨i, v, hd, ha⟩ := (mayIssue_iff c.cmd).mp hissue
  refine ⟨h.one_le, fun k hk hkl => ?_, ?_⟩
  · obtain ⟨u, hrun, hl, hbusy, hrv, hpulse, -⟩ := h.runEdges_awaits hissue hk hkl
    exact ⟨u, hrun, hbusy, hrv, hpulse, hl⟩
  · obtain ⟨u, ⟨hl, -, -, -, -, hup⟩, hrun⟩ := h.runEdges_response hd ha
    have hresult : resultOf c.cmd = some v := by rw [resultOf_eq hd, ha]; rfl
    exact ⟨_, hrun, hresult, rfl, rfl, rfl, hl, h.port_after_response hup⟩

/-- Settles O23: both write the same answer for the same latched command to an otherwise untouched block. -/
theorem transactionIsTheRunOfEdges : Obligations.TransactionIsTheRunOfEdges := by
  intro s c rest lat hb hport hr hv hissue hlat hrest
  have h : Presented s c rest lat := ⟨hb, hport, hr, hv, hlat, hrest⟩
  obtain ⟨i, v, hd, ha⟩ := (mayIssue_iff c.cmd).mp hissue
  obtain ⟨u, ⟨hl, -, -, -, -, hup⟩, hrun⟩ := h.runEdges_response hd ha
  refine ⟨_, transact_of_answer hb hd ha, _, hrun, ?_⟩
  simp only [State.writeR, State.popCycle, State.latch, ← hl, State.latched, h.port_after_response hup]

end Sys2Proof.Proofs
end

section
/-! SUPPORT. Proofs of the statements about construction (spec 40_construct.md). The extractor of R63 yields the bits of
an exact quotient, so FROMFLT's magnitude is one division; the rationals and the shifter of R64 are ways to write it. -/

namespace Sys2Proof.Proofs

open Sys2Proof.Machine Sys2Proof.Slice0

/-! ## FROMINT -/

/-- `n < 0` is the top bit (R61). -/
theorem i32Negative_eq_decide (a : Word) : i32Negative a = decide (a.toInt < 0) := BitVec.msb_eq_toInt

/-- `|n|` as an unsigned number (R61). -/
theorem i32Abs_eq_natAbs (a : Word) : i32Abs a = a.toInt.natAbs := by
  have hlt := a.isLt
  rw [i32Abs, BitVec.toInt_eq_msb_cond]
  split
  next hneg =>
    have hge := BitVec.toNat_ge_of_msb_true hneg
    omega
  next => rfl

/-- FROMINT's word as a number (R61). -/
theorem pack_fromIntValue_toNat (a : Word) :
    (pack (fromIntValue a)).toNat = packNum (boolNum (a.toInt < 0)) (a.toInt.natAbs * 2 ^ 16 % 2 ^ 31) := by
  rw [fromIntValue, pack_wrapMag_toNat, i32Negative_eq_decide, i32Abs_eq_natAbs, Nat.shiftLeft_eq, boolNum_eq_toNat,
    Config.fracBits_eq]

/-- Settles O25: FROMINT answers with its value's word. -/
theorem fromintResult : Obligations.FromintResult := by
  intro a b s
  refine ⟨encodedAs_of_not_readsB (i := .fromint a) rfl b, ?_⟩
  rw [← pack_fromIntValue_toNat]
  exact completes_of_answer rfl s

/-- The sign of a packed number (R7, R11). -/
theorem packNum_div {m : Nat} (hm : m < 2 ^ 31) (sg : Nat) : packNum sg m / 2 ^ 31 = sg := by
  rw [packNum]
  omega

/-- The magnitude of a packed number (R7, R11). -/
theorem packNum_mod {m : Nat} (hm : m < 2 ^ 31) (sg : Nat) : packNum sg m % 2 ^ 31 = m := by
  rw [packNum]
  omega

/-- Settles O26: `|n| * 2^16` fits 31 bits for `|n| <= 32767`, so the word's fields are `n`'s own. -/
theorem fromintExactInRange : Obligations.FromintExactInRange := by
  intro a ha
  have hanswer : answer (.fromint a) = .ok (pack (fromIntValue a)) := rfl
  have hfits : a.toInt.natAbs * 2 ^ 16 < 2 ^ 31 := by omega
  rw [resultNum_of_answer hanswer, pack_fromIntValue_toNat, Nat.mod_eq_of_lt hfits, packNum_div hfits,
    packNum_mod hfits]
  by_cases hneg : a.toInt < 0
  · simp only [boolNum, hneg, decide_true, if_true]
    omega
  · simp only [boolNum, hneg, decide_false, Bool.false_eq_true, if_false, Nat.zero_ne_one]
    omega

/-! ## FROMFLT -/

/-- A scaled quotient is the scaled integer part and the scaled remainder's quotient. -/
theorem mul_div_eq_div_mul_add {u : Nat} (hu : 0 < u) (n k : Nat) : n * k / u = n / u * k + n % u * k / u := by
  conv_lhs => rw [← Nat.div_add_mod n u, Nat.add_mul, Nat.mul_assoc, Nat.mul_add_div hu]

/-- The loop of R63 appends the first `n` binary digits of the fraction `r / unit`. -/
theorem extractLoop_eq {unit : Nat} (n : Nat) :
    ∀ {r : Nat} (fr : Nat), r < unit → extractLoop unit n r fr = fr * 2 ^ n + r * 2 ^ n / unit := by
  induction n with
  | zero =>
    intro r fr hr
    rw [extractLoop_zero, Nat.pow_zero, Nat.mul_one, Nat.mul_one, Nat.div_eq_of_lt hr, Nat.add_zero]
  | succ n ih =>
    intro r fr hr
    have hunit : 0 < unit := Nat.zero_lt_of_lt hr
    have hsplit := mul_div_eq_div_mul_add hunit (2 * r) (2 ^ n)
    have hscale : r * 2 ^ (n + 1) = 2 * r * 2 ^ n := by ring
    rw [extractLoop_succ, ih _ (Nat.mod_lt _ hunit), hscale, hsplit]
    ring

/-- FROMFLT's magnitude before the wrap: integer part and extracted fraction together are one division (R62, R64). -/
theorem intPart_add_extract16 {unit : Nat} (hunit : 0 < unit) (x : Nat) :
    ((x / unit) <<< 16) + extract16 unit (x - x / unit * unit) = x * 2 ^ 16 / unit := by
  have hrem : x - x / unit * unit = x % unit := by rw [Nat.mul_comm]; exact (Nat.mod_eq_sub_mul_div).symm
  rw [hrem, extract16, Config.extractSteps_eq, extractLoop_eq 16 0 (Nat.mod_lt x hunit), Nat.zero_mul, Nat.zero_add,
    Nat.shiftLeft_eq, ← mul_div_eq_div_mul_add hunit]

/-- The exponent field in the statements' spelling (R62). -/
theorem f32Exp_eq_expNum (a : Word) : f32Exp a = expNum a := f32Exp_eq a

/-- The significand in the statements' spelling (R62). -/
theorem f32Sig_eq_sigNum (a : Word) : f32Sig a = sigNum a := by
  rw [f32Sig, sigNum, f32Exp_eq_expNum, f32Frac_eq]

/-- A significand has 24 bits (R62). -/
theorem sigNum_lt (a : Word) : sigNum a < 2 ^ 24 := by
  rw [sigNum]
  split <;> omega

/-- The sign of a float as a number: 0 for both zeros (R62). -/
theorem f32Negative_toNat (a : Word) : (f32Negative a).toNat = floatSign a := by
  have hsign : a.msb.toNat = signNum a := fx_sign_toNat a
  rw [f32Negative, floatSign, f32Sig_eq_sigNum]
  by_cases hz : sigNum a = 0
  · simp [hz]
  · rw [if_neg hz, bne_iff_ne.mpr hz, Bool.and_true, hsign]

/-- FROMFLT's word as a number: one division of the significand at its scale (R62). -/
theorem pack_fromFltValue_toNat (a : Word) :
    (pack (fromFltValue a)).toNat =
      packNum (floatSign a) (sigNum a * 2 ^ (max (expNum a) 1 - 1) * 2 ^ 16 / 2 ^ 149 % 2 ^ 31) := by
  rw [fromFltValue, pack_wrapMag_toNat, f32Negative_toNat, Config.fracBits_eq, f32Unit,
    intPart_add_extract16 (Nat.two_pow_pos 149), f32Scaled, f32Exp_eq_expNum, f32Sig_eq_sigNum]

/-- FROMFLT on its domain completes with its value's number (R62, R65). -/
theorem completes_fromflt {a : Word} (ha : expNum a ≤ 157) (s : State) :
    Completes (.fromflt a) s
      (packNum (floatSign a) (sigNum a * 2 ^ (max (expNum a) 1 - 1) * 2 ^ 16 / 2 ^ 149 % 2 ^ 31)) := by
  have hanswer : answer (.fromflt a) = .ok (pack (fromFltValue a)) := if_pos ((fromFltDefined_iff a).mpr ha)
  rw [← pack_fromFltValue_toNat]
  exact completes_of_answer hanswer s

/-- The exact rational `|f|` over the common denominator of the binary32 values (R62; log 11). -/
theorem floatAbs_eq_div (a : Word) :
    floatAbs a = ((sigNum a * 2 ^ (max (expNum a) 1 - 1) : Nat) : ℚ) / ((2 ^ 149 : Nat) : ℚ) := by
  have hone : 1 ≤ max (expNum a) 1 := le_max_right _ _
  have hexp : (max (expNum a) 1 : ℤ) - 150 = ((max (expNum a) 1 - 1 : Nat) : ℤ) - (149 : Nat) := by omega
  rw [floatAbs, hexp, zpow_sub₀ two_ne_zero, zpow_natCast, zpow_natCast]
  push_cast
  ring

/-- The floor of the exact rational is the division (R62). -/
theorem floor_floatAbs (a : Word) :
    ⌊floatAbs a * 65536⌋₊ = sigNum a * 2 ^ (max (expNum a) 1 - 1) * 2 ^ 16 / 2 ^ 149 := by
  rw [← Nat.floor_div_eq_div (K := ℚ), floatAbs_eq_div]
  congr 1
  push_cast
  ring

/-- Settles O27: the number that wraps in FROMFLT's word is the floor of the exact rational. -/
theorem fromfltResult : Obligations.FromfltResult := by
  intro a b s ha
  refine ⟨encodedAs_of_not_readsB (i := .fromflt a) rfl b, ?_⟩
  rw [floor_floatAbs]
  exact completes_fromflt ha s

/-- The division as a shift of the significand by `e - 134`, left, right, or out of the word (R64). -/
theorem scaled_div_eq_shift {sig e : Nat} (hsig : sig < 2 ^ 24) (he : 1 ≤ e) :
    sig * 2 ^ (e - 1) * 2 ^ 16 / 2 ^ 149 % 2 ^ 31 =
      if 134 ≤ e then sig * 2 ^ (e - 134) % 2 ^ 31 else if 134 - e < 24 then sig / 2 ^ (134 - e) else 0 := by
  split_ifs with hleft hright
  · have hscale : sig * 2 ^ (e - 1) * 2 ^ 16 = sig * 2 ^ (e - 134) * 2 ^ 149 := by
      rw [Nat.mul_assoc, Nat.mul_assoc, ← Nat.pow_add, ← Nat.pow_add]
      congr 2
      omega
    rw [hscale, Nat.mul_div_cancel _ (Nat.two_pow_pos 149)]
  all_goals
    have hscale : sig * 2 ^ (e - 1) * 2 ^ 16 = sig * 2 ^ (e + 15) := by
      rw [Nat.mul_assoc, ← Nat.pow_add]
      congr 2
      omega
    have hunit : 2 ^ 149 = 2 ^ (134 - e) * 2 ^ (e + 15) := by
      rw [← Nat.pow_add]
      congr 1
      omega
    rw [hscale, hunit, Nat.mul_div_mul_right _ _ (Nat.two_pow_pos _)]
  · exact Nat.mod_eq_of_lt ((Nat.div_le_self _ _).trans_lt (hsig.trans (by norm_num)))
  · have hout : sig < 2 ^ (134 - e) := hsig.trans_le (Nat.pow_le_pow_right two_pos (by omega))
    rw [Nat.div_eq_of_lt hout, Nat.zero_mod]

/-- Settles O28: the shifter of R64 is the division FROMFLT does. -/
theorem fromfltByShift : Obligations.FromfltByShift := by
  intro a s ha
  rw [← scaled_div_eq_shift (sigNum_lt a) (le_max_right _ _)]
  exact completes_fromflt ha s

end Sys2Proof.Proofs
end

section
/-! SUPPORT. Proofs of the statements about arithmetic (spec 41_arith.md): SUB as ADD of the flipped operand, MUL by
columns of its right operand's bits, and the iterative divider. -/

namespace Sys2Proof.Proofs

open Sys2Proof.Machine Sys2Proof.Slice0

/-! ## SUB -/

/-- A FixedValue with its sign flipped. -/
def flipSign (v : FixedValue) : FixedValue := ⟨!v.sign, v.mag⟩

/-- SUB's value is ADD's with the right sign flipped: R71 and R72 branch on opposite conditions. -/
theorem subValue_eq_addValue_flipSign (x y : FixedValue) : subValue x y = addValue x (flipSign y) := by
  have hsign : x.sign ≠ (flipSign y).sign ↔ x.sign = y.sign := by simp [flipSign]
  simp only [subValue, addValue, hsign]
  rfl

/-- Flipping bit 31 of a word flips the sign and keeps the magnitude (R11). -/
theorem fx_xor_signBit (w : Word) : fx (w ^^^ 0x80000000#32) = flipSign (fx w) := by
  have hmsb : (0x80000000#32).msb = true := rfl
  have hmag : (0x80000000#32).setWidth 31 = 0#31 := rfl
  rw [fx, flipSign, BitVec.msb_xor, BitVec.setWidth_xor, hmsb, hmag, Bool.xor_true, BitVec.xor_zero, fx]

/-- The answers of SUB and of ADD with the flipped operand are the same. -/
theorem answer_sub_eq_answer_add (a b : Word) : answer (.sub a b) = answer (.add a (b ^^^ 0x80000000#32)) := by
  rw [answer, answer, subValue_eq_addValue_flipSign, fx_xor_signBit]

/-- Settles O32: what `exec` does at a state is the operation's answer. -/
theorem subIsAddOfFlipped : Obligations.SubIsAddOfFlipped := by
  intro a b s
  rw [exec_eq_give, exec_eq_give, answer_sub_eq_answer_add]

/-- The sign of a word with bit 31 flipped (R11). -/
theorem signNum_xor_signBit (w : Word) : signNum (w ^^^ 0x80000000#32) = 1 - signNum w := by
  rw [← fx_sign_toNat_eq_signNum, fx_xor_signBit, flipSign, not_toNat, fx_sign_toNat_eq_signNum]

/-- The magnitude of a word with bit 31 flipped (R11). -/
theorem magNum_xor_signBit (w : Word) : magNum (w ^^^ 0x80000000#32) = magNum w := by
  rw [← fx_mag_toNat_eq_magNum, fx_xor_signBit, flipSign, fx_mag_toNat_eq_magNum]

/-- A sign is one bit (R11). -/
theorem signNum_le_one (w : Word) : signNum w ≤ 1 := by
  rw [← fx_sign_toNat_eq_signNum]
  exact Bool.toNat_le _

/-- SUB's word as a number (R72), from ADD's. -/
theorem pack_subValue_toNat (a b : Word) :
    (pack (subValue (fx a) (fx b))).toNat =
      if signNum a = signNum b ∧ magNum b > magNum a then packNum (1 - signNum b) (magNum b - magNum a)
      else if signNum a = signNum b then packNum (signNum a) (magNum a - magNum b)
      else packNum (signNum a) ((magNum a + magNum b) % 2 ^ 31) := by
  have hunlike : signNum a ≠ 1 - signNum b ↔ signNum a = signNum b := by
    have ha := signNum_le_one a
    have hb := signNum_le_one b
    omega
  rw [subValue_eq_addValue_flipSign, ← fx_xor_signBit, pack_addValue_toNat]
  simp only [signNum_xor_signBit, magNum_xor_signBit, hunlike]

/-- Settles O31: SUB answers with its value's word, whose number follows R72's branches. -/
theorem subResult : Obligations.SubResult := by
  intro a b s
  refine ⟨encodedAs_of_readsB (i := .sub a b) rfl, ?_⟩
  rw [← pack_subValue_toNat]
  exact completes_of_answer rfl s

/-! ## Exactness of ADD and SUB on rational values -/

/-- `val` of a FixedValue (R8). -/
def fixedVal (v : FixedValue) : ℚ := (if v.sign then -1 else 1) * (v.mag.toNat : ℚ) / 2 ^ 16

/-- A word's value is its FixedValue's (R8, R11). -/
theorem fxVal_eq_fixedVal (w : Word) : fxVal w = fixedVal (fx w) := rfl

/-- The value of a flipped sign. -/
theorem fixedVal_flipSign (v : FixedValue) : fixedVal (flipSign v) = -fixedVal v := by
  rcases v with ⟨sg, m⟩
  cases sg <;> simp [fixedVal, flipSign] <;> ring

/-- The value of a magnitude that does not wrap. -/
theorem fixedVal_wrapMag {n : Nat} (hn : n < 2 ^ 31) (sg : Bool) :
    fixedVal ⟨sg, wrapMag n⟩ = (if sg then -1 else 1) * (n : ℚ) / 2 ^ 16 := by
  rw [fixedVal, wrapMag_toNat, Nat.mod_eq_of_lt hn]

/-- The factors of opposite signs. -/
theorem signFactor_of_ne {sg sg' : Bool} (h : sg ≠ sg') :
    (if sg then (-1 : ℚ) else 1) = -(if sg' then -1 else 1) := by
  cases sg <;> cases sg' <;> simp_all

/-- ADD is exact where the magnitudes subtract, or their sum does not wrap (R71). -/
theorem fixedVal_addValue {x y : FixedValue} (h : x.sign ≠ y.sign ∨ x.mag.toNat + y.mag.toNat < 2 ^ 31) :
    fixedVal (addValue x y) = fixedVal x + fixedVal y := by
  have hx := x.mag.isLt
  have hy := y.mag.isLt
  rw [addValue]
  split_ifs with hlarger hunlike
  · obtain ⟨hne, hgt⟩ := hlarger
    rw [fixedVal_wrapMag (by omega), Nat.cast_sub hgt.le, fixedVal, fixedVal, signFactor_of_ne hne]
    ring
  · have hle : y.mag.toNat ≤ x.mag.toNat := by
      by_contra hgt
      exact hlarger ⟨hunlike, by omega⟩
    rw [fixedVal_wrapMag (by omega), Nat.cast_sub hle, fixedVal, fixedVal, signFactor_of_ne hunlike]
    ring
  · have hlike : x.sign = y.sign := not_ne_iff.mp hunlike
    rw [fixedVal_wrapMag (h.resolve_left hunlike), Nat.cast_add, fixedVal, fixedVal, hlike]
    ring

/-- The result of an operation that answers with a packed value has that value. -/
theorem fxVal_of_resultOf_pack {i : Instr} {v : FixedValue} {r : Word} (ha : answer i = .ok (pack v))
    (hr : resultOf i.command = some r) : fxVal r = fixedVal v := by
  rw [resultOf_eq (decodeCommand_command i), ha] at hr
  cases hr
  rw [fxVal_eq_fixedVal, fx_pack]

/-- Settles O33: ADD's case of exactness, and SUB's as ADD of the flipped operand. -/
theorem addSubExactInRange : Obligations.AddSubExactInRange := by
  intro a b r
  simp only [← fx_mag_toNat_eq_magNum, ne_eq, ← fx_sign_eq_iff_signNum]
  constructor
  · intro hr hrange
    rw [fxVal_of_resultOf_pack (i := .add a b) rfl hr, fixedVal_addValue hrange]
    rfl
  · intro hr hrange
    have hrange' : (fx a).sign ≠ (flipSign (fx b)).sign ∨ (fx a).mag.toNat + (flipSign (fx b)).mag.toNat < 2 ^ 31 := by
      simpa [flipSign] using hrange
    rw [fxVal_of_resultOf_pack (i := .sub a b) rfl hr, subValue_eq_addValue_flipSign, fixedVal_addValue hrange',
      fixedVal_flipSign, sub_eq_add_neg]
    rfl

/-! ## MUL by columns

Bit `j` of the right magnitude contributes the left one times `2^j`, shifted right by 16: that is what both parts of
R73's loop add, and its own bits are the kept partial products of R74. -/

/-- The low `n + 1` bits of a number are the low `n` bits and bit `n`. -/
theorem mod_two_pow_succ_eq (m n : Nat) : m % 2 ^ (n + 1) = m % 2 ^ n + 2 ^ n * (m.testBit n).toNat := by
  rw [Nat.toNat_testBit, Nat.mod_pow_succ]

/-- The low bits of a number, shifted left by `j` and right by 16: bit `i` is kept where `i + j` is at least 16. -/
theorem mod_two_pow_mul_div_eq_sum (m j n : Nat) :
    m % 2 ^ n * 2 ^ j / 2 ^ 16 =
      ∑ i ∈ Finset.range n, if 16 ≤ i + j ∧ m.testBit i then 2 ^ (i + j - 16) else 0 := by
  induction n with
  | zero => rw [Nat.pow_zero, Nat.mod_one, Nat.zero_mul, Nat.zero_div, Finset.sum_range_zero]
  | succ n ih =>
    rw [Finset.sum_range_succ, ← ih, mod_two_pow_succ_eq]
    by_cases hbit : m.testBit n = true
    · by_cases hkept : 16 ≤ n + j
      · have hscale : 2 ^ n * 2 ^ j = 2 ^ 16 * 2 ^ (n + j - 16) := by
          rw [← Nat.pow_add, ← Nat.pow_add]
          congr 1
          omega
        rw [if_pos ⟨hkept, hbit⟩, hbit, Bool.toNat_true, Nat.mul_one, Nat.add_mul, hscale,
          Nat.add_mul_div_left _ _ (Nat.two_pow_pos 16)]
      · have hsmall : (m % 2 ^ n + 2 ^ n) * 2 ^ j < 2 ^ 16 := by
          have hmod := Nat.mod_lt m (Nat.two_pow_pos n)
          calc (m % 2 ^ n + 2 ^ n) * 2 ^ j
              < (2 ^ n + 2 ^ n) * 2 ^ j := Nat.mul_lt_mul_of_pos_right (by omega) (Nat.two_pow_pos j)
            _ = 2 ^ (n + j + 1) := by ring
            _ ≤ 2 ^ 16 := Nat.pow_le_pow_right two_pos (by omega)
        have hsmall' : m % 2 ^ n * 2 ^ j < 2 ^ 16 :=
          (Nat.mul_le_mul_right _ (Nat.le_add_right _ _)).trans_lt hsmall
        rw [if_neg fun h => hkept h.1, hbit, Bool.toNat_true, Nat.mul_one, Nat.div_eq_of_lt hsmall,
          Nat.div_eq_of_lt hsmall']
    · simp [hbit]

/-- A number times the low bits of another, column by column. -/
theorem mul_mod_two_pow_eq_sum (m b n : Nat) :
    m * (b % 2 ^ n) = ∑ j ∈ Finset.range n, if b.testBit j then m * 2 ^ j else 0 := by
  induction n with
  | zero => simp [Nat.mod_one]
  | succ n ih =>
    rw [Finset.sum_range_succ, ← ih, mod_two_pow_succ_eq, Nat.mul_add]
    cases b.testBit n <;> simp

/-- The sixteen conditional terms of R73 are the columns of the fraction bits. -/
theorem sum_shifted_eq_sum_columns (m b : Nat) :
    (∑ k ∈ Finset.Icc 1 16, if (b % 2 ^ 16).testBit (16 - k) then m / 2 ^ k else 0) =
      ∑ j ∈ Finset.range 16, if b.testBit j then m * 2 ^ j / 2 ^ 16 else 0 := by
  refine Finset.sum_nbij' (16 - ·) (16 - ·) ?_ ?_ ?_ ?_ ?_
  · intro k hk; simp only [Finset.mem_Icc, Finset.mem_range] at *; omega
  · intro j hj; simp only [Finset.mem_Icc, Finset.mem_range] at *; omega
  · intro k hk; simp only [Finset.mem_Icc] at hk; omega
  · intro j hj; simp only [Finset.mem_range] at hj; omega
  · intro k hk
    obtain ⟨hk1, hk16⟩ := Finset.mem_Icc.mp hk
    have hscale : 2 ^ 16 = 2 ^ k * 2 ^ (16 - k) := by rw [← Nat.pow_add, Nat.add_sub_cancel' hk16]
    have hlow : 16 - k < 16 := by omega
    simp only [Nat.testBit_mod_two_pow, hlow, decide_true, Bool.true_and]
    rw [hscale, Nat.mul_div_mul_right _ _ (Nat.two_pow_pos _)]

/-- R73's accumulator as a sum over the bits of the right magnitude. -/
theorem mulAcc_eq_sum_columns (a b : Word) :
    mulAcc (fx a).mag (fx b).mag =
      ∑ j ∈ Finset.range 31, if (magNum b).testBit j then magNum a * 2 ^ j / 2 ^ 16 else 0 := by
  have hint : magNum b / 2 ^ 16 = magNum b / 2 ^ 16 % 2 ^ 15 := by
    have hb := magNum_lt b
    omega
  have hcolumn (j : Nat) : magNum a * 2 ^ (16 + j) / 2 ^ 16 = magNum a * 2 ^ j := by
    rw [Nat.pow_add, Nat.mul_left_comm, Nat.mul_div_cancel_left _ (Nat.two_pow_pos 16)]
  rw [mulAcc_eq_add_sum, sum_shifted_eq_sum_columns, hint, mul_mod_two_pow_eq_sum, Finset.sum_range_add _ 16 15,
    Nat.add_comm]
  simp only [Nat.testBit_div_two_pow, Nat.add_comm _ 16, hcolumn]

/-- R74's closed form: the partial products of weight at least 2^16. -/
theorem mulAcc_eq_sum_partialProducts (a b : Word) :
    mulAcc (fx a).mag (fx b).mag =
      ∑ i ∈ Finset.range 31, ∑ j ∈ Finset.range 31,
        if 16 ≤ i + j ∧ (magNum a).testBit i ∧ (magNum b).testBit j then 2 ^ (i + j - 16) else 0 := by
  have ha : magNum a = magNum a % 2 ^ 31 := (Nat.mod_eq_of_lt (magNum_lt a)).symm
  rw [mulAcc_eq_sum_columns, Finset.sum_comm]
  refine Finset.sum_congr rfl fun j _ => ?_
  by_cases hbit : (magNum b).testBit j = true
  · conv_lhs => rw [ha]
    rw [if_pos hbit, mod_two_pow_mul_div_eq_sum]
    simp only [hbit, and_true]
  · simp [hbit]

/-- MUL completes with the wrapped accumulator (R73). -/
theorem completes_mul (a b : Word) (s : State) :
    Completes (.mul a b) s
      (packNum (xorNum (signNum a) (signNum b)) (mulAcc (fx a).mag (fx b).mag % 2 ^ 31)) := by
  rw [← pack_xor_wrapMag_toNat]
  exact completes_of_answer rfl s

/-- Settles O35: the accumulator is the sum of the kept partial products. -/
theorem mulIsSumOfKeptPartialProducts : Obligations.MulIsSumOfKeptPartialProducts := by
  intro a b s
  rw [← mulAcc_eq_sum_partialProducts]
  exact completes_mul a b s

/-- What the columns below 2^16 cut off: less than 1 for each of the sixteen fraction bits. -/
theorem sum_cut_off_lt (m b : Nat) :
    (∑ j ∈ Finset.range 31, if b.testBit j then m * 2 ^ j % 2 ^ 16 else 0) < 16 * 2 ^ 16 := by
  have hhigh (j : Nat) : m * 2 ^ (16 + j) % 2 ^ 16 = 0 := by
    rw [Nat.pow_add, Nat.mul_left_comm, Nat.mul_mod_right]
  have hlow (j : Nat) : (if b.testBit j then m * 2 ^ j % 2 ^ 16 else 0) < 2 ^ 16 := by
    split
    · exact Nat.mod_lt _ (Nat.two_pow_pos 16)
    · exact Nat.two_pow_pos 16
  rw [Finset.sum_range_add _ 16 15]
  simp only [hhigh, ite_self, Finset.sum_const_zero, Nat.add_zero]
  calc (∑ j ∈ Finset.range 16, if b.testBit j then m * 2 ^ j % 2 ^ 16 else 0)
      < ∑ _j ∈ Finset.range 16, 2 ^ 16 := Finset.sum_lt_sum_of_nonempty (by simp) fun j _ => hlow j
    _ = 16 * 2 ^ 16 := by rw [Finset.sum_const, Finset.card_range, smul_eq_mul]

/-- The product is the accumulator and what the columns cut off. -/
theorem magNum_mul_magNum_eq (a b : Word) :
    magNum a * magNum b = 2 ^ 16 * mulAcc (fx a).mag (fx b).mag +
      ∑ j ∈ Finset.range 31, if (magNum b).testBit j then magNum a * 2 ^ j % 2 ^ 16 else 0 := by
  have hb : magNum b = magNum b % 2 ^ 31 := (Nat.mod_eq_of_lt (magNum_lt b)).symm
  rw [mulAcc_eq_sum_columns, Finset.mul_sum, ← Finset.sum_add_distrib]
  conv_lhs => rw [hb, mul_mod_two_pow_eq_sum]
  refine Finset.sum_congr rfl fun j _ => ?_
  split
  · exact (Nat.div_add_mod _ _).symm
  · rfl

/-- MUL's result as a number, at the state it is read at (R23, R73). -/
theorem resultNum_mul (a b : Word) :
    resultNum (.mul a b) =
      packNum (xorNum (signNum a) (signNum b)) (mulAcc (fx a).mag (fx b).mag % 2 ^ 31) := by
  have hanswer : answer (.mul a b) = .ok (pack (mulValue (fx a) (fx b))) := rfl
  rw [resultNum_of_answer hanswer, mulValue, pack_xor_wrapMag_toNat]

/-- Settles O36: the sixteen cut-off remainders together are below `16 * 2^16`. -/
theorem mulWithinFifteenOfWidened : Obligations.MulWithinFifteenOfWidened := by
  intro a b hfits
  have hproduct := magNum_mul_magNum_eq a b
  have hcut := sum_cut_off_lt (magNum a) (magNum b)
  have hnowrap : mulAcc (fx a).mag (fx b).mag < 2 ^ 31 := by omega
  rw [resultNum_mul, packNum_mod (Nat.mod_lt _ (Nat.two_pow_pos 31)), Nat.mod_eq_of_lt hnowrap]
  omega

/-! ## The iterative divider -/

/-- Reading one more dividend bit where the divisor goes into the new remainder: a quotient bit 1. -/
theorem div_mod_next_bit_of_le {d p bit : Nat} (hbit : bit < 2) (hle : d ≤ 2 * (p % d) + bit) (hd : 0 < d) :
    (2 * p + bit) / d = 2 * (p / d) + 1 ∧ (2 * p + bit) % d = 2 * (p % d) + bit - d := by
  have hlt := Nat.mod_lt p hd
  have hsplit : d * (2 * (p / d) + 1) = 2 * (d * (p / d)) + d := by ring
  have hp := Nat.div_add_mod p d
  rw [Nat.div_mod_unique hd, hsplit]
  omega

/-- Reading one more dividend bit where the divisor does not go into the new remainder: a quotient bit 0. -/
theorem div_mod_next_bit_of_lt {d p bit : Nat} (hlt : 2 * (p % d) + bit < d) (hd : 0 < d) :
    (2 * p + bit) / d = 2 * (p / d) ∧ (2 * p + bit) % d = 2 * (p % d) + bit := by
  have hsplit : d * (2 * (p / d)) = 2 * (d * (p / d)) := by ring
  have hp := Nat.div_add_mod p d
  rw [Nat.div_mod_unique hd, hsplit]
  omega

/-- Setting bit `i` of a quotient whose low `i + 1` bits are 0. -/
theorem mul_two_pow_or_bit (q i : Nat) : q * 2 ^ (i + 1) ||| 1 <<< i = (2 * q + 1) * 2 ^ i := by
  have hlt : 2 ^ i < 2 ^ (i + 1) := Nat.pow_lt_pow_succ one_lt_two
  rw [Nat.one_shiftLeft, Nat.mul_comm, ← Nat.two_pow_add_eq_or_of_lt hlt]
  ring

/-- From the remainder and quotient of the dividend bits read so far, the loop of R77 goes on to those of all bits. -/
theorem restoringLoop_eq {d : Nat} (hd : 0 < d) (n i : Nat) :
    restoringLoop n d i (n / 2 ^ i % d) (n / 2 ^ i / d * 2 ^ i) = (n % d, n / d) := by
  induction i with
  | zero => simp
  | succ i ih =>
    have hbits : 2 * (n / 2 ^ (i + 1)) + n / 2 ^ i % 2 = n / 2 ^ i := by
      rw [Nat.pow_succ, ← Nat.div_div_eq_div_mul, Nat.div_add_mod]
    rw [restoringLoop_succ, ← ih]
    split_ifs with hge
    · obtain ⟨hdiv, hmod⟩ := div_mod_next_bit_of_le (Nat.mod_lt _ two_pos) hge hd
      rw [mul_two_pow_or_bit, ← hdiv, ← hmod, hbits]
    · obtain ⟨hdiv, hmod⟩ := div_mod_next_bit_of_lt (Nat.not_le.mp hge) hd
      have hquotient : n / 2 ^ (i + 1) / d * 2 ^ (i + 1) = 2 * (n / 2 ^ (i + 1) / d) * 2 ^ i := by ring
      rw [hquotient, ← hdiv, ← hmod, hbits]

/-- Settles O39: no bit of a 47-bit dividend is read before the loop's first step, and all are after its last. -/
theorem restoringDividerDivides : Obligations.RestoringDividerDivides := by
  intro n d hn hd
  have hloop := restoringLoop_eq (Nat.pos_of_ne_zero hd) n 47
  rw [Nat.div_eq_of_lt hn, Nat.zero_mod, Nat.zero_div, Nat.zero_mul] at hloop
  rw [restoringQuotient, Config.divSteps_eq, hloop]

/-! ## Laws -/

/-- ADD's result as a number, at the state it is read at (R23). -/
theorem resultNum_add (a b : Word) : resultNum (.add a b) = (pack (addValue (fx a) (fx b))).toNat :=
  resultNum_of_answer rfl

/-- SUB's result as a number, at the state it is read at (R23). -/
theorem resultNum_sub (a b : Word) : resultNum (.sub a b) = (pack (subValue (fx a) (fx b))).toNat :=
  resultNum_of_answer rfl

/-- `a + 0 = a` bit for bit: a zero magnitude is never the larger one, and adds or subtracts nothing (R78). -/
theorem addValue_zero (x : FixedValue) : addValue x ⟨false, 0#31⟩ = x := by
  simp [addValue, wrapMag]

/-- `a - a` has magnitude 0 and the sign of `a` (R78). -/
theorem subValue_self (x : FixedValue) : subValue x x = ⟨x.sign, 0#31⟩ := by
  simp [subValue, wrapMag]

/-- `a * 1 = a`: the right operand has integer part 1 and no fraction bit (R78). -/
theorem mulValue_one (a : Word) : mulValue (fx a) (fx 0x00010000#32) = fx a := by
  have hint : magNum 0x00010000#32 / 2 ^ 16 = 1 := rfl
  have hfrac : magNum 0x00010000#32 % 2 ^ 16 = 0 := rfl
  have hsign : (fx 0x00010000#32).sign = false := rfl
  rw [mulValue, mulAcc_eq_add_sum, hint, hfrac, hsign, ← fx_mag_toNat_eq_magNum]
  simp [wrapMag]

/-- The two orders of an addition of like signs are the same (R78). -/
theorem addValue_comm_of_sign_eq {x y : FixedValue} (h : x.sign = y.sign) : addValue x y = addValue y x := by
  simp [addValue, h, Nat.add_comm]

/-- The two orders of an addition of unlike signs are the same where one magnitude is larger, which gives the
sign (R78). -/
theorem addValue_comm_of_mag_ne {x y : FixedValue} (hs : x.sign ≠ y.sign) (hm : x.mag.toNat ≠ y.mag.toNat) :
    addValue x y = addValue y x := by
  rcases Nat.lt_or_gt_of_ne hm with hlt | hgt
  · simp [addValue, hs, hs.symm, hlt, Nat.lt_asymm hlt]
  · simp [addValue, hs, hs.symm, hgt, Nat.lt_asymm hgt]

/-- A tie of opposite signs is a zero with the sign of the left operand (R78). -/
theorem addValue_of_tie {x y : FixedValue} (hs : x.sign ≠ y.sign) (hm : x.mag.toNat = y.mag.toNat) :
    addValue x y = ⟨x.sign, 0#31⟩ := by
  simp [addValue, hs, hm, wrapMag]

/-- The word of a zero as a number. -/
theorem pack_zero_toNat (a : Word) : (pack ⟨(fx a).sign, 0#31⟩).toNat = packNum (signNum a) 0 := by
  rw [pack_toNat, fx_sign_toNat_eq_signNum]
  rfl

/-- The two orders of an addition agree in magnitude, and differ on a tie of opposite signs alone (R78). -/
theorem resultNum_add_comm (a b : Word) :
    resultNum (.add a b) % 2 ^ 31 = resultNum (.add b a) % 2 ^ 31 ∧
      (resultNum (.add a b) ≠ resultNum (.add b a) ↔ signNum a ≠ signNum b ∧ magNum a = magNum b) := by
  rw [resultNum_add, resultNum_add, ne_eq (signNum a), ← fx_sign_eq_iff_signNum, ← fx_mag_toNat_eq_magNum,
    ← fx_mag_toNat_eq_magNum]
  by_cases hs : (fx a).sign = (fx b).sign
  · simp [addValue_comm_of_sign_eq hs, hs]
  by_cases hm : (fx a).mag.toNat = (fx b).mag.toNat
  · have hzero : 0 < 2 ^ 31 := Nat.two_pow_pos 31
    have hne : signNum a ≠ signNum b := mt (fx_sign_eq_iff_signNum a b).mpr hs
    rw [addValue_of_tie hs hm, addValue_of_tie (Ne.symm hs) hm.symm, pack_zero_toNat, pack_zero_toNat,
      packNum_mod hzero, packNum_mod hzero]
    refine ⟨rfl, fun _ => ⟨hs, hm⟩, fun _ => ?_⟩
    rw [packNum, packNum]
    omega
  · simp [addValue_comm_of_mag_ne hs hm, hm]

/-- MUL's value is commutative: R74's sum is symmetric (R74 a). -/
theorem answer_mul_comm (a b : Word) : answer (.mul a b) = answer (.mul b a) := by
  have hacc : mulAcc (fx a).mag (fx b).mag = mulAcc (fx b).mag (fx a).mag := by
    rw [mulAcc_eq_sum_partialProducts, mulAcc_eq_sum_partialProducts, Finset.sum_comm]
    simp only [Nat.add_comm, and_comm]
  rw [answer, answer, mulValue, mulValue, hacc, Bool.xor_comm]

/-- Settles O40: each law is a fact about the values. -/
theorem arithmeticLawsThatHold : Obligations.ArithmeticLawsThatHold := by
  refine ⟨fun a => ?_, fun a => ?_, fun a => ?_, fun a b => ?_, fun a b s => ?_⟩
  · have hzero : fx 0#32 = ⟨false, 0#31⟩ := rfl
    rw [resultNum_add, hzero, addValue_zero, pack_fx]
  · have hanswer : answer (.mul a 0x00010000#32) = .ok (pack (mulValue (fx a) (fx 0x00010000#32))) := rfl
    rw [resultNum_of_answer hanswer, mulValue_one, pack_fx]
  · rw [resultNum_sub, subValue_self, pack_zero_toNat]
  · exact resultNum_add_comm a b
  · rw [exec_eq_give, exec_eq_give, answer_mul_comm]

end Sys2Proof.Proofs
end

section
/-! SUPPORT. Proofs of the statements about comparison, the helpers and DIG10 (spec 42_compare.md, 43_helpers.md,
44_format.md). LT is the order of the integers under a numbering of the words (`orderKey`), and GT is LT the other way
round, so how the comparisons fit together is arithmetic. -/

namespace Sys2Proof.Proofs

open Sys2Proof.Machine Sys2Proof.Slice0

/-! ## LT and GT -/

/-- The comparator in the statements' spelling (R90, R98). -/
theorem magLt_eq_decide_magNum (a b : Word) : magLt (fx a) (fx b) = decide (magNum a < magNum b) := by
  rw [magLt, fx_mag_toNat_eq_magNum, fx_mag_toNat_eq_magNum]

/-- LT's truth value as a number, by the four cases of R91. -/
theorem ltTruth_toNat (a b : Word) :
    (ltTruth (fx a) (fx b)).toNat =
      if signNum a = 1 ∧ signNum b = 0 then 1
      else if signNum a = 1 ∧ signNum b = 1 then boolNum (magNum a > magNum b)
      else if signNum a = 0 ∧ signNum b = 0 then boolNum (magNum a < magNum b)
      else 0 := by
  rw [← fx_sign_toNat_eq_signNum, ← fx_sign_toNat_eq_signNum, boolNum_eq_toNat, boolNum_eq_toNat, ltTruth,
    magLt_eq_decide_magNum, magLt_eq_decide_magNum]
  rcases (fx a).sign with _ | _ <;> rcases (fx b).sign with _ | _ <;> rfl

/-- Settles O41: LT's answer is the word of its truth value. -/
theorem ltResult : Obligations.LtResult := by
  intro a b s
  refine ⟨encodedAs_of_readsB (i := .lt a b) rfl, ?_⟩
  rw [← ltTruth_toNat]
  exact completes_of_answer_boolWord rfl s

/-- GT is LT with the operands exchanged: R92's cases are R91's. -/
theorem gtTruth_eq_ltTruth (x y : FixedValue) : gtTruth x y = ltTruth y x := by
  rw [gtTruth, ltTruth, Bool.and_comm (!x.sign), Bool.and_comm x.sign, Bool.and_comm (!x.sign)]

/-- GT's truth value as a number, by the four cases of R92. -/
theorem gtTruth_toNat (a b : Word) :
    (gtTruth (fx a) (fx b)).toNat =
      if signNum a = 0 ∧ signNum b = 1 then 1
      else if signNum a = 1 ∧ signNum b = 1 then boolNum (magNum a < magNum b)
      else if signNum a = 0 ∧ signNum b = 0 then boolNum (magNum a > magNum b)
      else 0 := by
  rw [gtTruth_eq_ltTruth, ltTruth_toNat]
  simp only [gt_iff_lt, and_comm]

/-- Settles O42: GT's answer is the word of its truth value. -/
theorem gtResult : Obligations.GtResult := by
  intro a b s
  refine ⟨encodedAs_of_readsB (i := .gt a b) rfl, ?_⟩
  rw [← gtTruth_toNat]
  exact completes_of_answer_boolWord rfl s

/-! ## The order of the words -/

/-- The place of a word in the order of LT: a negative word of magnitude `m` stands at `-1 - m`, a non-negative one at
`m` (R97). -/
def orderKey (w : Word) : ℤ := if signNum w = 1 then -1 - magNum w else magNum w

/-- A word is its sign and its magnitude (R11). -/
theorem packNum_signNum_magNum (a : Word) : packNum (signNum a) (magNum a) = a.toNat :=
  Nat.div_add_mod' a.toNat (2 ^ 31)

/-- No two words stand at the same place: negative zero stands at -1, positive zero at 0. -/
theorem orderKey_injective {a b : Word} (h : orderKey a = orderKey b) : a = b := by
  have ha := signNum_le_one a
  have hb := signNum_le_one b
  apply BitVec.eq_of_toNat_eq
  rw [← packNum_signNum_magNum a, ← packNum_signNum_magNum b, packNum, packNum]
  rw [orderKey, orderKey] at h
  split_ifs at h <;> omega

/-- LT is the order of the places. -/
theorem ltTruth_iff_orderKey_lt (a b : Word) : ltTruth (fx a) (fx b) = true ↔ orderKey a < orderKey b := by
  rw [← Bool.toNat_eq_one, ltTruth_toNat, orderKey, orderKey]
  rcases Nat.le_one_iff_eq_zero_or_eq_one.mp (signNum_le_one a) with ha | ha <;>
    rcases Nat.le_one_iff_eq_zero_or_eq_one.mp (signNum_le_one b) with hb | hb
  · simp [ha, hb, boolNum]
  · simp [ha, hb]
    omega
  · simp [ha, hb]
    omega
  · simp [ha, hb, boolNum]

/-- LT's result as a number (R23, R91). -/
theorem resultNum_lt (a b : Word) : resultNum (.lt a b) = boolNum (orderKey a < orderKey b) := by
  have hanswer : answer (.lt a b) = .ok (boolWord (ltTruth (fx a) (fx b))) := rfl
  rw [resultNum_of_answer hanswer, boolWord_toNat, boolNum_eq_toNat]
  congr 1
  rw [Bool.eq_iff_iff, ltTruth_iff_orderKey_lt, decide_eq_true_iff]

/-- GT's result is LT's with the operands exchanged (R92). -/
theorem resultNum_gt_eq_resultNum_lt (a b : Word) : resultNum (.gt a b) = resultNum (.lt b a) := by
  have hgt : answer (.gt a b) = .ok (boolWord (gtTruth (fx a) (fx b))) := rfl
  have hlt : answer (.lt b a) = .ok (boolWord (ltTruth (fx b) (fx a))) := rfl
  rw [resultNum_of_answer hgt, resultNum_of_answer hlt, gtTruth_eq_ltTruth]

/-- EQ's result as a number (R23, R95). -/
theorem resultNum_eq (a b : Word) : resultNum (.eq a b) = boolNum (magNum a = magNum b) := by
  have hanswer : answer (.eq a b) = .ok (boolWord (magEq (fx a) (fx b))) := rfl
  rw [resultNum_of_answer hanswer, boolWord_toNat, boolNum_eq_toNat, magEq_eq_decide_magNum]

/-- LT's result is 1 exactly on words in order. -/
theorem resultNum_lt_eq_one_iff (a b : Word) : resultNum (.lt a b) = 1 ↔ orderKey a < orderKey b := by
  simp [resultNum_lt, boolNum]

/-- Two words of equal magnitude stand at the same place exactly when their signs are equal. -/
theorem orderKey_eq_iff_of_magNum_eq {a b : Word} (hm : magNum a = magNum b) :
    orderKey a = orderKey b ↔ signNum a = signNum b := by
  have ha := signNum_le_one a
  have hb := signNum_le_one b
  rw [orderKey, orderKey]
  split_ifs <;> omega

/-- Words of different magnitude stand at different places. -/
theorem orderKey_ne_of_magNum_ne {a b : Word} (hm : magNum a ≠ magNum b) : orderKey a ≠ orderKey b := by
  intro h
  exact hm (congrArg magNum (orderKey_injective h))

/-- LT and GT together: 1 on different words, 0 on equal ones. -/
theorem resultNum_lt_add_resultNum_gt (a b : Word) :
    resultNum (.lt a b) + resultNum (.gt a b) = if orderKey a = orderKey b then 0 else 1 := by
  rw [resultNum_gt_eq_resultNum_lt, resultNum_lt, resultNum_lt]
  rcases lt_trichotomy (orderKey a) (orderKey b) with h | h | h
  · simp [boolNum, h, h.ne, h.not_gt]
  · simp [boolNum, h]
  · simp [boolNum, h, h.ne', h.not_gt]

/-- Settles O48: LT or GT holds on different words, EQ on equal magnitudes, and both on the two words of a magnitude. -/
theorem orderingAgainstEquality : Obligations.OrderingAgainstEquality := by
  intro a b
  have hsum := resultNum_lt_add_resultNum_gt a b
  refine ⟨?_, ?_, resultNum_gt_eq_resultNum_lt a b⟩
  · rw [Nat.add_right_comm, hsum, resultNum_eq]
    by_cases hm : magNum a = magNum b
    · by_cases hs : signNum a = signNum b
      · simp [boolNum, hm, hs, (orderKey_eq_iff_of_magNum_eq hm).mpr hs]
      · simp [boolNum, hm, hs, mt (orderKey_eq_iff_of_magNum_eq hm).mp hs]
    · simp [boolNum, hm, orderKey_ne_of_magNum_ne hm]
  · rw [hsum]
    split <;> omega

/-- Negative zero stands at -1. -/
theorem orderKey_negZero : orderKey 0x80000000#32 = -1 := rfl

/-- Positive zero stands at 0. -/
theorem orderKey_zero : orderKey 0#32 = 0 := rfl

/-- Settles O49: the order of the integers is strict and total, and no integer lies between -1 and 0. -/
theorem ltIsStrictTotalOrder : Obligations.LtIsStrictTotalOrder := by
  simp only [Obligations.LtIsStrictTotalOrder, resultNum_lt_eq_one_iff, orderKey_negZero, orderKey_zero]
  refine ⟨fun a => ?_, fun a b c => lt_trans, fun a b hne => ?_, by decide, fun c h => ?_⟩
  · simp [resultNum_lt, boolNum]
  · exact lt_or_gt_of_ne (mt orderKey_injective hne)
  · omega

/-! ## ABS and SGN -/

/-- ABS's word as a number (R100). -/
theorem pack_abs_toNat (a : Word) : (pack ⟨false, (fx a).mag⟩).toNat = magNum a := by
  rw [pack_toNat, Bool.toNat_false, Nat.zero_mul, Nat.zero_add, fx_mag_toNat_eq_magNum]

/-- Settles O50: ABS answers with the word of the magnitude and sign 0. -/
theorem absResult : Obligations.AbsResult := by
  intro a b s
  refine ⟨encodedAs_of_not_readsB (i := .abs a) rfl b, ?_⟩
  rw [← pack_abs_toNat]
  exact completes_of_answer rfl s

/-- Settles O51: SGN answers with the word of the sign bit. -/
theorem sgnResult : Obligations.SgnResult := by
  intro a b s
  refine ⟨encodedAs_of_not_readsB (i := .sgn a) rfl b, ?_⟩
  rw [← fx_sign_toNat_eq_signNum]
  exact completes_of_answer_boolWord rfl s

/-- SGN's result as a number (R23, R101). -/
theorem resultNum_sgn (a : Word) : resultNum (.sgn a) = signNum a := by
  have hanswer : answer (.sgn a) = .ok (boolWord (fx a).sign) := rfl
  rw [resultNum_of_answer hanswer, boolWord_toNat, fx_sign_toNat_eq_signNum]

/-- The word of an operation's result is its answer. -/
theorem ofNat_resultNum {i : Instr} {v : Word} (ha : answer i = .ok v) : BitVec.ofNat 32 (resultNum i) = v := by
  rw [resultNum_of_answer ha, BitVec.ofNat_toNat, BitVec.setWidth_eq]

/-- SGN of an operation whose answer has the exclusive-or of two operands' signs. -/
theorem resultNum_sgn_of_answer_xor {i : Instr} {a b : Word} {m : Mag}
    (ha : answer i = .ok (pack ⟨(fx a).sign ^^ (fx b).sign, m⟩)) :
    resultNum (.sgn (BitVec.ofNat 32 (resultNum i))) = xorNum (resultNum (.sgn a)) (resultNum (.sgn b)) := by
  simp only [ofNat_resultNum ha, resultNum_sgn, ← fx_sign_toNat_eq_signNum, fx_pack, xor_toNat]

/-- Settles O52: the sign of MUL's value and of DIV's is the exclusive-or. -/
theorem signPropagates : Obligations.SignPropagates := by
  intro a b
  exact ⟨resultNum_sgn_of_answer_xor rfl, fun hb => resultNum_sgn_of_answer_xor (answer_div_of_magNum_ne_zero hb)⟩

/-- Settles O53: a word stands below positive zero exactly when its sign is set, and ABS keeps the magnitude. -/
theorem helpersAgainstComparisons : Obligations.HelpersAgainstComparisons := by
  intro a
  constructor
  · have ha := signNum_le_one a
    rw [resultNum_sgn, resultNum_lt, orderKey_zero, orderKey, boolNum]
    split_ifs <;> simp_all <;> omega
  · have habs : answer (.abs a) = .ok (pack ⟨false, (fx a).mag⟩) := rfl
    have hmag : magNum (pack ⟨false, (fx a).mag⟩) = magNum a := by
      rw [← fx_mag_toNat_eq_magNum, fx_pack, fx_mag_toNat_eq_magNum]
    rw [ofNat_resultNum habs, resultNum_eq, hmag]
    simp [boolNum]

/-! ## The digits of DIG10 -/

/-- The fraction DIG10 leaves is that of ten times the fraction it reads (R107). -/
theorem fraction_after_dig10 (f : Word) :
    (BitVec.ofNat 32 (resultNum (.dig10 f))).toNat % 2 ^ 16 = f.toNat % 2 ^ 16 * 10 % 2 ^ 16 := by
  rw [resultNum_dig10, BitVec.toNat_ofNat]
  omega

/-- The fraction left after `n` steps (R107 d). -/
theorem digSteps_fraction (n : Nat) (f : Word) :
    (digSteps n f).toNat % 2 ^ 16 = f.toNat % 2 ^ 16 * 10 ^ n % 2 ^ 16 := by
  induction n generalizing f with
  | zero => rw [digSteps, Nat.pow_zero, Nat.mul_one, Nat.mod_mod]
  | succ n ih => rw [digSteps, ih, fraction_after_dig10, Nat.mod_mul_mod, Nat.pow_succ' (m := 10), Nat.mul_assoc]

/-- The digits of `n` steps stand after those before them (R107 d). -/
theorem digNumber_eq (n : Nat) (f : Word) (acc : Nat) :
    digNumber n f acc = acc * 10 ^ n + f.toNat % 2 ^ 16 * 10 ^ n / 2 ^ 16 := by
  induction n generalizing f acc with
  | zero => rw [digNumber, Nat.pow_zero]; omega
  | succ n ih =>
    have hsplit := mul_div_eq_div_mul_add (Nat.two_pow_pos 16) (f.toNat % 2 ^ 16 * 10) (10 ^ n)
    rw [digNumber, ih, fraction_after_dig10, resultNum_dig10, Nat.pow_succ' (m := 10),
      ← Nat.mul_assoc (f.toNat % 2 ^ 16), hsplit]
    ring

/-- Settles O56: the digits are those of the expansion with none before them. -/
theorem digitsAreTheDecimalExpansion : Obligations.DigitsAreTheDecimalExpansion := by
  intro n f
  refine ⟨?_, digSteps_fraction n f⟩
  rw [digNumber_eq, Nat.zero_mul, Nat.zero_add]

/-- Settles O57: `10^n` has the factor `2^16` for `n >= 16`. -/
theorem fractionEndsInSixteenSteps : Obligations.FractionEndsInSixteenSteps := by
  intro n f hn
  have hten : 2 ^ 16 ∣ 10 ^ n := (pow_dvd_pow_of_dvd (by decide : 2 ∣ 10) 16).trans (pow_dvd_pow 10 hn)
  rw [digSteps_fraction]
  exact Nat.mod_eq_zero_of_dvd (hten.mul_left _)

end Sys2Proof.Proofs
end

section
/-! SUPPORT. Proofs of the statements about host software (spec 44_format.md R111 to R113, 30_encoding.md R52 and R53).
On an idle block each command of a procedure is its operation's answer (`issue_command`), so what a procedure prints is
arithmetic on those answers. -/

namespace Sys2Proof.Proofs

open Sys2Proof.Machine Sys2Proof.Slice0

/-! ## Strings of digits -/

/-- One more digit after a string of digits. -/
theorem asciiNumber_concat (l : List Ascii) (c : Ascii) :
    asciiNumber (l ++ [c]) = asciiNumber l * 10 + (c.toNat - 0x30) := by
  rw [asciiNumber, List.foldl_concat, asciiNumber]

/-- A string of digits after another. -/
theorem asciiNumber_append (l m : List Ascii) :
    asciiNumber (l ++ m) = asciiNumber l * 10 ^ m.length + asciiNumber m := by
  induction m using List.reverseRecOn with
  | nil => simp [asciiNumber]
  | append_singleton m c ih =>
    rw [← List.append_assoc, asciiNumber_concat, asciiNumber_concat, ih, List.length_append, List.length_singleton]
    ring

/-- The number of a single digit. -/
theorem digitChar_toNat_sub {d : Nat} (h : d ≤ 9) : (digitChar d).toNat - 0x30 = d := by
  rw [digitChar_toNat h, Nat.add_sub_cancel_left]

/-- A digit before a string of digits. -/
theorem asciiNumber_digitChar_cons {d : Nat} (h : d ≤ 9) (l : List Ascii) :
    asciiNumber (digitChar d :: l) = d * 10 ^ l.length + asciiNumber l := by
  rw [← List.singleton_append, asciiNumber_append, ← List.nil_append [digitChar d], asciiNumber_concat,
    digitChar_toNat_sub h]
  simp [asciiNumber]

/-- The empty string holds digits only. -/
theorem allDigits_nil : allDigits [] := fun _ h => absurd h List.not_mem_nil

/-- A digit before a string of digits is one. -/
theorem allDigits_digitChar_cons {d : Nat} (h : d ≤ 9) {l : List Ascii} (hl : allDigits l) :
    allDigits (digitChar d :: l) := by
  refine List.forall_mem_cons.mpr ⟨?_, hl⟩
  rw [digitChar_toNat h]
  omega

/-! ## The whole part -/

/-- The digits after the first, when the last digit is taken off: none where nothing is left of the number. -/
theorem decimalReversed_succ (fuel n : Nat) :
    decimalReversed (fuel + 1) n =
      digitChar (n % 10) :: if n / 10 = 0 then [] else decimalReversed fuel (n / 10) := rfl

/-- A digit of a decimal number is at most 9. -/
theorem mod_ten_le_nine (n : Nat) : n % 10 ≤ 9 := Nat.le_of_lt_succ (Nat.mod_lt n (by decide))

/-- The characters of a decimal number are digits (R113). -/
theorem allDigits_decimalReversed (fuel n : Nat) : allDigits (decimalReversed fuel n) := by
  induction fuel generalizing n with
  | zero => exact allDigits_nil
  | succ fuel ih =>
    rw [decimalReversed_succ]
    apply allDigits_digitChar_cons (mod_ten_le_nine n)
    split
    · exact allDigits_nil
    · exact ih (n / 10)

/-- There are no more digits than asked for. -/
theorem length_decimalReversed_le (fuel n : Nat) : (decimalReversed fuel n).length ≤ fuel := by
  induction fuel generalizing n with
  | zero => exact Nat.le_refl 0
  | succ fuel ih =>
    rw [decimalReversed_succ, List.length_cons]
    split
    · exact Nat.succ_le_succ (Nat.zero_le fuel)
    · exact Nat.succ_le_succ (ih (n / 10))

/-- With enough digits the string stands for the number. -/
theorem asciiNumber_reverse_decimalReversed {fuel n : Nat} (hn : n < 10 ^ fuel) :
    asciiNumber (decimalReversed fuel n).reverse = n := by
  induction fuel generalizing n with
  | zero =>
    obtain rfl : n = 0 := Nat.lt_one_iff.mp hn
    rfl
  | succ fuel ih =>
    have hrest : asciiNumber (if n / 10 = 0 then [] else decimalReversed fuel (n / 10)).reverse = n / 10 := by
      split
      next hz => rw [hz]; rfl
      next => exact ih (Nat.div_lt_of_lt_mul (by rwa [← Nat.pow_succ']))
    rw [decimalReversed_succ, List.reverse_cons, asciiNumber_concat, hrest, digitChar_toNat_sub (mod_ten_le_nine n)]
    omega

/-- With enough digits the first digit of a number that is not 0 is not 0. -/
theorem reverse_decimalReversed_eq_cons {fuel n : Nat} (hn : n < 10 ^ fuel) (hpos : n ≠ 0) :
    ∃ c rest, (decimalReversed fuel n).reverse = c :: rest ∧ c ≠ 0x30#8 := by
  induction fuel generalizing n with
  | zero => exact absurd (Nat.lt_one_iff.mp hn) hpos
  | succ fuel ih =>
    rw [decimalReversed_succ, List.reverse_cons]
    split
    next hz =>
      refine ⟨digitChar (n % 10), [], rfl, fun h => ?_⟩
      have hd := digitChar_toNat_sub (mod_ten_le_nine n)
      rw [h] at hd
      have hzero : n % 10 = 0 := hd.symm
      omega
    next hrest =>
      obtain ⟨c, rest, hrev, hc⟩ := ih (Nat.div_lt_of_lt_mul (by rwa [← Nat.pow_succ'])) hrest
      exact ⟨c, rest ++ [digitChar (n % 10)], by rw [hrev, List.cons_append], hc⟩

/-- The whole part is a decimal number of one to five digits (R111). -/
theorem decimal_digits (n : Nat) : allDigits (decimal n) ∧ 1 ≤ (decimal n).length ∧ (decimal n).length ≤ 5 := by
  refine ⟨fun c hc => allDigits_decimalReversed 5 n c (List.mem_reverse.mp hc), ?_, ?_⟩
  · rw [decimal, List.length_reverse, decimalReversed_succ, List.length_cons]
    exact Nat.le_add_left 1 _
  · rw [decimal, List.length_reverse]
    exact length_decimalReversed_le 5 n

/-- The whole part has no leading zero, but for the number 0 (R111). -/
theorem length_decimal_of_leading_zero {n : Nat} (hn : n < 10 ^ 5) (hz : (decimal n).head? = some 0x30#8) :
    (decimal n).length = 1 := by
  by_cases hpos : n = 0
  · subst hpos
    rfl
  · obtain ⟨c, rest, hrev, hc⟩ := reverse_decimalReversed_eq_cons hn hpos
    rw [decimal, hrev, List.head?_cons] at hz
    exact absurd (Option.some.inj hz) hc

/-! ## The fraction -/

/-- The string is the truncated decimal expansion of `f / 2^16`: `digits` digits of it, or fewer where it ends, and none
after its end (R111, R112). -/
def IsExpansion (f digits : Nat) (l : List Ascii) : Prop :=
  allDigits l ∧ l.length ≤ digits ∧ asciiNumber l = f * 10 ^ l.length / 2 ^ 16 ∧
    (l.length < digits → f * 10 ^ l.length % 2 ^ 16 = 0) ∧ ∀ k < l.length, f * 10 ^ k % 2 ^ 16 ≠ 0

/-- No digit is due where the fraction is 0. -/
theorem isExpansion_nil_of_zero (digits : Nat) : IsExpansion 0 digits [] :=
  ⟨allDigits_nil, Nat.zero_le _, rfl, fun _ => rfl, fun _ hk => absurd hk (Nat.not_lt_zero _)⟩

/-- No digit is asked for. -/
theorem isExpansion_no_digits {f : Nat} (hf : f < 2 ^ 16) : IsExpansion f 0 [] := by
  refine ⟨allDigits_nil, Nat.le_refl 0, ?_, fun h => absurd h (Nat.lt_irrefl 0),
    fun _ hk => absurd hk (Nat.not_lt_zero _)⟩
  rw [List.length_nil, Nat.pow_zero, Nat.mul_one, Nat.div_eq_of_lt hf]
  rfl

/-- One digit of a fraction that is not 0, before the expansion of the fraction it leaves (R107, R111). -/
theorem isExpansion_cons {f digits : Nat} {l : List Ascii} (hf : f < 2 ^ 16) (hpos : f ≠ 0)
    (hl : IsExpansion (f * 10 % 2 ^ 16) digits l) : IsExpansion f (digits + 1) (digitChar (f * 10 / 2 ^ 16) :: l) := by
  obtain ⟨hdigits, hlength, hnumber, hend, hgoesOn⟩ := hl
  have hd : f * 10 / 2 ^ 16 ≤ 9 := by omega
  have hmod (k : Nat) : f * 10 ^ (k + 1) % 2 ^ 16 = f * 10 % 2 ^ 16 * 10 ^ k % 2 ^ 16 := by
    rw [Nat.mod_mul_mod, Nat.pow_succ' (m := 10), Nat.mul_assoc]
  have hsplit := mul_div_eq_div_mul_add (Nat.two_pow_pos 16) (f * 10) (10 ^ l.length)
  refine ⟨allDigits_digitChar_cons hd hdigits, Nat.succ_le_succ hlength, ?_, fun h => ?_, fun k hk => ?_⟩
  · rw [asciiNumber_digitChar_cons hd, hnumber, ← hsplit, List.length_cons, Nat.pow_succ' (m := 10), Nat.mul_assoc]
  · rw [List.length_cons, hmod]
    exact hend (Nat.lt_of_succ_lt_succ h)
  · cases k with
    | zero => omega
    | succ k =>
      rw [hmod]
      exact hgoesOn k (Nat.lt_of_succ_lt_succ hk)

/-! ## The rendering procedure -/

/-- A host's command on an idle block gives the operation's answer, and the block after the response (R32). -/
theorem issue_command {i : Instr} {v : Word} {s : State} (hb : s.busy = false) (ha : answer i = .ok v) :
    issue i.command s = .next (v, (s.latch i.command).writeR v) :=
  issue_of_answer hb (decodeCommand_command i) ha

/-- A host procedure goes on with what its first part ended in. -/
theorem andThen_next {α β : Type} (x : α) (s : State) (k : α → State → HostRun β) :
    HostRun.andThen (.next (x, s)) k = k x s := rfl

/-- The word DIG10 gives for a fraction: ten times it (R107). -/
theorem dig10_fraction_toNat (f : BitVec 16) :
    (natWord (fracField (f.setWidth 32) * Config.radix)).toNat = f.toNat * 10 := by
  have hf := f.isLt
  rw [natWord_fracField_mul_radix_toNat, BitVec.toNat_setWidth]
  omega

/-- R111's loop on an idle block completes, and prints the truncated expansion of its fraction. -/
theorem renderFraction_isExpansion (digits : Nat) (f : BitVec 16) (s : State) (hb : s.busy = false)
    (hrv : s.rv = true) :
    ∃ l t, renderFraction digits f s = .next (l, t) ∧ t.busy = false ∧ t.rv = true ∧ IsExpansion f.toNat digits l := by
  induction digits generalizing f s with
  | zero => exact ⟨[], s, rfl, hb, hrv, isExpansion_no_digits f.isLt⟩
  | succ digits ih =>
    rw [renderFraction]
    split
    next hz =>
      subst hz
      exact ⟨[], s, rfl, hb, hrv, isExpansion_nil_of_zero _⟩
    next hpos =>
      have hword := dig10_fraction_toNat f
      have hf := f.isLt
      have hanswer : answer (.dig10 (f.setWidth 32)) = .ok (natWord (fracField (f.setWidth 32) * Config.radix)) := rfl
      rw [issue_command hb hanswer, andThen_next]
      generalize natWord (fracField (f.setWidth 32) * Config.radix) = t at hword
      have hleft : (t.extractLsb' 0 16).toNat = f.toNat * 10 % 2 ^ 16 := by
        rw [BitVec.extractLsb'_toNat, hword, Nat.shiftRight_zero]
      have hdigit : (t.extractLsb' 16 4).toNat = f.toNat * 10 / 2 ^ 16 := by
        rw [BitVec.extractLsb'_toNat, hword, Nat.shiftRight_eq_div_pow]
        omega
      obtain ⟨l, u, hrun, hub, hurv, hl⟩ := ih (t.extractLsb' 0 16) _ (State.writeR_busy _ t) (State.writeR_rv _ t)
      rw [hleft] at hl
      have hne : f.toNat ≠ 0 := fun h => hpos (BitVec.eq_of_toNat_eq h)
      refine ⟨_, u, by rw [hrun, andThen_next], hub, hurv, ?_⟩
      rw [hdigit]
      exact isExpansion_cons hf hne hl

/-- The host prints a minus exactly when the sign bit is set (R111). -/
theorem boolWord_sign_eq_one_iff (x : Word) : boolWord (fx x).sign = 1#32 ↔ signNum x = 1 := by
  rw [← fx_sign_toNat_eq_signNum, ← BitVec.toNat_inj, boolWord_toNat]
  rfl

/-- What the host prints before the fraction (R111). -/
def renderHead (x : Word) : List Ascii :=
  (if signNum x = 1 then [Ascii.minus] else []) ++ decimal (magNum x / 2 ^ 16) ++ [Ascii.point]

/-- The rendering procedure on an idle block: its two first commands answer, and the fraction is rendered after them. -/
theorem toStringRun_eq (x : Word) (digits : Nat) {s : State} (hb : s.busy = false) :
    ∃ u : State, u.busy = false ∧ u.rv = true ∧
      toStringRun x digits s =
        if x.extractLsb' 0 16 = 0#16 then .next (renderHead x ++ [digitChar 0], u)
        else (renderFraction digits (x.extractLsb' 0 16) u).andThen fun l t => .next (renderHead x ++ l, t) := by
  have hsgn : answer (.sgn x) = .ok (boolWord (fx x).sign) := rfl
  have hwhole : answer (.whole x) = .ok (natWord (intPart (fx x).mag)) := rfl
  refine ⟨(((s.latch (Instr.sgn x).command).writeR (boolWord (fx x).sign)).latch (Instr.whole x).command).writeR
    (natWord (intPart (fx x).mag)), rfl, rfl, ?_⟩
  rw [toStringRun, issue_command hb hsgn, andThen_next, issue_command (State.writeR_busy _ _) hwhole, andThen_next]
  simp only [boolWord_sign_eq_one_iff, natWord_intPart_toNat, renderHead]

/-- The fraction field of a word as a number (R107). -/
theorem fractionBits_toNat (x : Word) : (x.extractLsb' 0 16).toNat = x.toNat % 2 ^ 16 := by
  rw [BitVec.extractLsb'_toNat, Nat.shiftRight_zero]

/-- Settles O58: the whole part is a decimal number without a leading zero, the fraction an expansion or the digit 0. -/
theorem renderingIsTheTruncatedExpansion : Obligations.RenderingIsTheTruncatedExpansion := by
  intro x digits s hb
  have hfraction := fractionBits_toNat x
  have hmag := magNum_lt x
  have hfits : magNum x / 2 ^ 16 < 10 ^ 5 := by omega
  obtain ⟨hdigits, hlower, hupper⟩ := decimal_digits (magNum x / 2 ^ 16)
  obtain ⟨u, hub, hurv, hrun⟩ := toStringRun_eq x digits hb
  have hwholeNumber : asciiNumber (decimal (magNum x / 2 ^ 16)) = magNum x / 2 ^ 16 :=
    asciiNumber_reverse_decimalReversed hfits
  by_cases hz : x.extractLsb' 0 16 = 0#16
  · have hzero : x.toNat % 2 ^ 16 = 0 := by rw [← hfraction, hz]; rfl
    rw [if_pos hz] at hrun
    exact ⟨decimal (magNum x / 2 ^ 16), [digitChar 0], u, hrun, hub, hurv, hdigits, hlower, hupper, hwholeNumber,
      length_decimal_of_leading_zero hfits, allDigits_digitChar_cons (Nat.zero_le 9) allDigits_nil, fun _ => rfl,
      fun h => absurd hzero h⟩
  · have hnonzero : x.toNat % 2 ^ 16 ≠ 0 := fun h => hz (BitVec.eq_of_toNat_eq (hfraction.trans h))
    obtain ⟨l, t, hfrac, htb, htrv, hl⟩ := renderFraction_isExpansion digits (x.extractLsb' 0 16) u hub hurv
    rw [if_neg hz, hfrac, andThen_next] at hrun
    rw [hfraction] at hl
    obtain ⟨hfracDigits, hexpansion⟩ := hl
    exact ⟨decimal (magNum x / 2 ^ 16), l, t, hrun, htb, htrv, hdigits, hlower, hupper, hwholeNumber,
      length_decimal_of_leading_zero hfits, hfracDigits, fun h => absurd h hnonzero, fun _ => hexpansion⟩

/-! ## Scripts -/

/-- A name stands for a value exactly when the host variable has it (R52). -/
theorem value_eq_ok_iff (h : HostState) (name : Nat) (w : Word) :
    h.value name = .ok w ↔ h.vars.lookup name = some w := by
  rw [HostState.value]
  cases h.vars.lookup name <;> simp

/-- Removing one variable leaves the others. -/
theorem lookup_filter_ne {name other : Nat} (hne : other ≠ name) (vars : List (Nat × Word)) :
    (vars.filter fun p => p.1 != name).lookup other = vars.lookup other := by
  induction vars with
  | nil => rfl
  | cons p vars ih =>
    obtain ⟨key, w⟩ := p
    by_cases hkey : key = name
    · subst hkey
      rw [List.filter_cons_of_neg (by simp), ih, List.lookup_cons, beq_false_of_ne hne]
    · rw [List.filter_cons_of_pos (by simpa using hkey), List.lookup_cons, List.lookup_cons, ih]

/-- The variable a line gives a value (R52). -/
theorem lookup_setVar_same (h : HostState) (name : Nat) (v : Word) (block : State) :
    (h.setVar name v block).vars.lookup name = some v := List.lookup_cons_self

/-- The other variables of a line that gives one a value (R52). -/
theorem lookup_setVar_of_ne {name other : Nat} (hne : other ≠ name) (h : HostState) (v : Word) (block : State) :
    (h.setVar name v block).vars.lookup other = h.vars.lookup other := by
  rw [HostState.setVar, List.lookup_cons, beq_false_of_ne hne]
  exact lookup_filter_ne hne h.vars

/-- A command line with operands that have values and a command the host may issue (R52). -/
theorem command_of_answer {h : HostState} {op : OpCode} {x y : ScriptOperand} {a b : Word} {i : Instr} {v : Word}
    (hx : h.operand x = .ok a) (hy : h.operand y = .ok b) (hb : h.block.busy = false)
    (hd : decodeCommand ⟨op, a, b⟩ = .ok i) (ha : answer i = .ok v) (name : Nat) :
    h.command name op x y = .ok (h.setVar name v ((h.block.latch ⟨op, a, b⟩).writeR v)) := by
  simp only [HostState.command, hx, hy, issue_of_answer hb hd ha]

/-- Settles O59: the line's command answers, and its variable alone changes. -/
theorem scriptCommandLine : Obligations.ScriptCommandLine := by
  refine ⟨fun _ _ => rfl, value_eq_ok_iff, fun script h name op x y a b hline hx hy hb hissue => ?_⟩
  obtain ⟨i, v, hd, ha⟩ := (mayIssue_iff _).mp hissue
  have hresult : resultOf ⟨op, a, b⟩ = some v := by rw [resultOf_eq hd, ha]; rfl
  refine ⟨h.setVar name v ((h.block.latch ⟨op, a, b⟩).writeR v), ?_, rfl, ?_, ?_, fun other hne => ?_⟩
  · simp only [HostState.step, hline, command_of_answer hx hy hb hd ha]
  · rw [lookup_setVar_same, hresult]
  · rw [hresult]
    exact Option.some_ne_none v
  · exact lookup_setVar_of_ne hne h v _

/-- A jump goes to the first line with its label (R136; log 13). -/
theorem jump_of_first (h : HostState) {label : Nat} {before : List ScriptLine} (hfirst : .label label ∉ before)
    (after : List ScriptLine) :
    h.jump (before ++ .label label :: after) label = .ok { h with line := before.length } := by
  have hindex : (before ++ .label label :: after).findIdx? (fun l => l == ScriptLine.label label) =
      some before.length := by
    have hbefore : before.findIdx? (fun l => l == ScriptLine.label label) = none :=
      List.findIdx?_eq_none_iff.mpr fun l hl => beq_eq_false_iff_ne.mpr fun h => hfirst (h ▸ hl)
    rw [List.findIdx?_append, hbefore, List.findIdx?_cons, if_pos (beq_self_eq_true _)]
    simp
  rw [HostState.jump, hindex]

/-- Settles O60: the lines of the host's own run by their definition, and a jump finds the first line of its label. -/
theorem scriptControlFlow : Obligations.ScriptControlFlow := by
  refine ⟨fun script script' h name op y hline hline' => ?_,
    fun script h name label v before after hscript hfirst hline hv => ?_,
    fun script h label before after hscript hfirst hline => ?_⟩
  · rw [HostState.step, HostState.step, hline, hline']
  · have hvalue := (value_eq_ok_iff h name v).mpr hv
    simp only [HostState.step, hline, hvalue]
    by_cases hz : v = 0#32
    · subst hz
      rfl
    · have hpos : v.toNat ≠ 0 := fun h0 => hz (BitVec.eq_of_toNat_eq h0)
      rw [if_pos hz, if_neg hpos, hscript, jump_of_first h hfirst]
  · subst hscript
    simp only [HostState.step, hline]
    exact jump_of_first h hfirst after

end Sys2Proof.Proofs
end
